-- ==== Sys2Proof/Word.lean ====
section
/-! DEFINITION. The word types of the block: 32-bit registers and operation words, 16-bit pixels, bytes. -/

namespace Sys2Proof

/-- A register or an operation word: 32 bits, bit 0 least significant (00_scope.md R8, 30_encoding.md R91). -/
abbrev Word := BitVec 32

/-- A pixel: an opaque 16-bit value (20_memory.md R61). -/
abbrev Pixel := BitVec 16

/-- The smallest unit of the platform's memory (20_memory.md R62). -/
abbrev Byte := BitVec 8

end Sys2Proof
end

