-- ==== Sys2Proof/Syntax.lean ====
section
/-! DEFINITION. The twelve operations of the block (00_scope.md R2, 30_encoding.md R90, R99): one constructor per row of
the opcode table, in its order. -/

namespace Sys2Proof

/-- The pacing policy (10_state.md R24, 42_synchronizer.md R173 to R175). -/
inductive Policy where
  /-- 0: "Favor throughput". -/
  | throughput
  /-- 1: "Favor tear-free". -/
  | tearfree
  deriving DecidableEq, Repr

/-- The two ports an operation word can be written to (30_encoding.md R101, R103, R105). -/
inductive Port where
  /-- The command port, `CMD`. -/
  | cmd
  /-- The event port, `EVT`. -/
  | evt
  deriving DecidableEq, Repr

/-- The operations with their operands (30_encoding.md R90, R106). Counts are numbers, checked by `Instr.wf`; an index of
one of two buffers and a flag are one bit, `false` for 0 and `true` for 1. -/
inductive Instr where
  /-- `INIT pol, w, h`: pacing policy, logical width, logical height (44_lifecycle.md R205). -/
  | init (pol : Policy) (w h : Nat)
  /-- `RECOMPUTE` (40_geometry.md R123). -/
  | recompute
  /-- `SET_XFORM scale, rot`: scale factor 0 to 3, rotation flag (40_geometry.md R122). -/
  | setXform (scale : Nat) (rot : Bool)
  /-- `ENABLE` (44_lifecycle.md R210). -/
  | enable
  /-- `DISABLE` (44_lifecycle.md R212). -/
  | disable
  /-- `ACQUIRE` (43_handoff.md R187). -/
  | acquire
  /-- `PUBLISH f`: the index of the frame published (43_handoff.md R189). -/
  | publish (f : Bool)
  /-- `WAIT_VSYNC` (43_handoff.md R194). -/
  | waitVsync
  /-- `POLL_VSYNC` (43_handoff.md R196). -/
  | pollVsync
  /-- `SET_BACKLIGHT pct`: a percentage 0 to 255 (44_lifecycle.md R218). -/
  | setBacklight (pct : Nat)
  /-- `TEARDOWN` (44_lifecycle.md R215). -/
  | teardown
  /-- `LINE buf, ur`: destination line buffer, underrun flag (41_scanout.md R150). -/
  | line (buf ur : Bool)
  deriving DecidableEq, Repr

/-- The port that accepts an operation (30_encoding.md R99, R105): `LINE` on `EVT`, every other on `CMD`. -/
def Instr.port : Instr → Port
  | .init _ _ _ => .cmd
  | .recompute => .cmd
  | .setXform _ _ => .cmd
  | .enable => .cmd
  | .disable => .cmd
  | .acquire => .cmd
  | .publish _ => .cmd
  | .waitVsync => .cmd
  | .pollVsync => .cmd
  | .setBacklight _ => .cmd
  | .teardown => .cmd
  | .line _ _ => .evt

/-- The operation's name in the opcode map (30_encoding.md R99). -/
def Instr.mnemonic : Instr → String
  | .init _ _ _ => "INIT"
  | .recompute => "RECOMPUTE"
  | .setXform _ _ => "SET_XFORM"
  | .enable => "ENABLE"
  | .disable => "DISABLE"
  | .acquire => "ACQUIRE"
  | .publish _ => "PUBLISH"
  | .waitVsync => "WAIT_VSYNC"
  | .pollVsync => "POLL_VSYNC"
  | .setBacklight _ => "SET_BACKLIGHT"
  | .teardown => "TEARDOWN"
  | .line _ _ => "LINE"

end Sys2Proof
end

