-- ==== Sys2Proof/WellFormed.lean ====
section
/-! DEFINITION. Which instructions an encoding can hold: each numeric operand fits its field (30_encoding.md R93 to R97,
R106). -/

namespace Sys2Proof

/-- The operand ranges of 30_encoding.md R106: `w`, `h` 0 to 8191 (13 bits), `scale` 0 to 3 (2 bits), `pct` 0 to 255
(8 bits); one-bit operands are in range by their type. -/
def Instr.wf : Instr → Bool
  | .init _ w h => decide (w ≤ 8191) && decide (h ≤ 8191)
  | .recompute => true
  | .setXform scale _ => decide (scale ≤ 3)
  | .enable => true
  | .disable => true
  | .acquire => true
  | .publish _ => true
  | .waitVsync => true
  | .pollVsync => true
  | .setBacklight pct => decide (pct ≤ 255)
  | .teardown => true
  | .line _ _ => true

end Sys2Proof
end

