-- ==== Sys2Proof/Decode.lean ====
section
/-! DEFINITION. Decoding of a word on either port (30_encoding.md R91 to R100, R108) and the encoder (R106). Both are total;
a word that is no operation of the port is rejected by name. -/

namespace Sys2Proof

/-- Why a word is no operation of the port it is written to (30_encoding.md R100, R105). -/
inductive DecodeError where
  /-- Its `OP` is 0x0, 0xC, 0xD or 0xE. -/
  | reservedOp
  /-- Its `OP` is defined and a reserved bit of its format is 1. -/
  | reservedBit
  /-- It is an operation of the other port. -/
  | wrongPort
  deriving DecidableEq, Repr

/-- The field `w[lo + n - 1 : lo]`, zero-extended (00_scope.md R8, 30_encoding.md R98). -/
def field (w : Word) (lo n : Nat) : Nat := (w.extractLsb' lo n).toNat

/-- The one-bit field `w[i]`. -/
def flag (w : Word) (i : Nat) : Bool := w.getLsbD i

/-- A policy from its bit: 0 `THROUGHPUT`, 1 `TEARFREE` (10_state.md R24). -/
def Policy.ofBit : Bool → Policy
  | false => .throughput
  | true => .tearfree

/-- The bit of a policy (10_state.md R24). -/
def Policy.bit : Policy → Bool
  | .throughput => false
  | .tearfree => true

/-- A word of format Z: `OP` alone, bits 31:4 reserved (30_encoding.md R92). -/
def decodeZ (w : Word) (i : Instr) : Except DecodeError Instr :=
  if field w 4 28 = 0 then .ok i else .error .reservedBit

/-- The operation a word names, whatever the port: by its `OP`, with the reserved bits of its format checked
(30_encoding.md R92 to R99). -/
def decodeWord (w : Word) : Except DecodeError Instr :=
  match field w 0 4 with
  | 0x1 => if field w 31 1 = 0 then .ok (.init (Policy.ofBit (flag w 4)) (field w 5 13) (field w 18 13)) else .error .reservedBit
  | 0x2 => decodeZ w .recompute
  | 0x3 => if field w 7 25 = 0 then .ok (.setXform (field w 4 2) (flag w 6)) else .error .reservedBit
  | 0x4 => decodeZ w .enable
  | 0x5 => decodeZ w .disable
  | 0x6 => decodeZ w .acquire
  | 0x7 => if field w 5 27 = 0 then .ok (.publish (flag w 4)) else .error .reservedBit
  | 0x8 => decodeZ w .waitVsync
  | 0x9 => decodeZ w .pollVsync
  | 0xA => if field w 12 20 = 0 then .ok (.setBacklight (field w 4 8)) else .error .reservedBit
  | 0xB => decodeZ w .teardown
  | 0xF => if field w 6 26 = 0 then .ok (.line (flag w 4) (flag w 5)) else .error .reservedBit
  | _ => .error .reservedOp

/-- Decoding of a word written to a port (30_encoding.md R108): an operation of that port, or an error. -/
def decode (p : Port) (w : Word) : Except DecodeError Instr :=
  match decodeWord w with
  | .ok i => if i.port = p then .ok i else .error .wrongPort
  | .error e => .error e

/-- The word with a number in the field that starts at bit `lo`. -/
def place (v lo : Nat) : Word := BitVec.ofNat 32 v <<< lo

/-- The word with one bit at position `i`. -/
def placeBit (b : Bool) (i : Nat) : Word := place b.toNat i

/-- The word of an instruction, by the table of 30_encoding.md R106. -/
def Instr.encode : Instr → Word
  | .init pol w h => 0x1#32 ||| placeBit pol.bit 4 ||| place w 5 ||| place h 18
  | .recompute => 0x00000002#32
  | .setXform scale rot => 0x3#32 ||| place scale 4 ||| placeBit rot 6
  | .enable => 0x00000004#32
  | .disable => 0x00000005#32
  | .acquire => 0x00000006#32
  | .publish f => 0x7#32 ||| placeBit f 4
  | .waitVsync => 0x00000008#32
  | .pollVsync => 0x00000009#32
  | .setBacklight pct => 0xA#32 ||| place pct 4
  | .teardown => 0x0000000B#32
  | .line buf ur => 0xF#32 ||| placeBit buf 4 ||| placeBit ur 5

/-- The instruction read from a word on the one port that accepts it: `LINE` words on `EVT`, command words on `CMD`. -/
def decodeAnyPort (w : Word) : Option Instr :=
  match decode .evt w with
  | .ok i => some i
  | .error _ =>
    match decode .cmd w with
    | .ok i => some i
    | .error _ => none

/-- The instruction the decoder reads from the word whose low `nbits` bits are those of `w`, the others 0. Every operation
is one 32-bit word (30_encoding.md R91). -/
def decodeTableWord (nbits w : Nat) : Option Instr := decodeAnyPort (BitVec.ofNat 32 (w % 2 ^ nbits))

/-- One row of the opcode map: a word `w` selects it when `w AND mask = value` (30_encoding.md R99). -/
structure OpcodeRow where
  mnemonic : String
  value : Word
  mask : Word
  port : Port
  deriving DecidableEq, Repr

/-- The opcode map of 30_encoding.md R99, row by row. `decode` is written from the formats; this table is the spec's other
description of the same words. -/
def opcodeMap : List OpcodeRow := [
  ⟨"INIT", 0x00000001, 0x8000000F, .cmd⟩,
  ⟨"RECOMPUTE", 0x00000002, 0xFFFFFFFF, .cmd⟩,
  ⟨"SET_XFORM", 0x00000003, 0xFFFFFF8F, .cmd⟩,
  ⟨"ENABLE", 0x00000004, 0xFFFFFFFF, .cmd⟩,
  ⟨"DISABLE", 0x00000005, 0xFFFFFFFF, .cmd⟩,
  ⟨"ACQUIRE", 0x00000006, 0xFFFFFFFF, .cmd⟩,
  ⟨"PUBLISH", 0x00000007, 0xFFFFFFEF, .cmd⟩,
  ⟨"WAIT_VSYNC", 0x00000008, 0xFFFFFFFF, .cmd⟩,
  ⟨"POLL_VSYNC", 0x00000009, 0xFFFFFFFF, .cmd⟩,
  ⟨"SET_BACKLIGHT", 0x0000000A, 0xFFFFF00F, .cmd⟩,
  ⟨"TEARDOWN", 0x0000000B, 0xFFFFFFFF, .cmd⟩,
  ⟨"LINE", 0x0000000F, 0xFFFFFFCF, .evt⟩]

/-- A word selects a row (30_encoding.md R99). -/
def OpcodeRow.selects (r : OpcodeRow) (w : Word) : Bool := w &&& r.mask == r.value

end Sys2Proof
end

