-- ==== Sys2Proof/Config.lean ====
section
/-! DEFINITION. What an implementation fixes (00_scope.md section 5) and the free values: what the spec leaves
unspecified and no proof can see. -/

namespace Sys2Proof

/-- The implementation parameters of 00_scope.md section 5 that are free: the panel's size (R7, R23) and the byte
addresses of the four pixel arrays and of the two register blocks (20_memory.md R70). -/
structure Params where
  pw : Nat
  ph : Nat
  fb0Base : Nat
  fb1Base : Nat
  lb0Base : Nat
  lb1Base : Nat
  regBase : Nat
  evtBase : Nat
  deriving DecidableEq, Repr

/-- Largest value of a 13-bit dimension (`DIM_BITS`, 00_scope.md section 5). -/
abbrev maxDim : Nat := 8191

/-- Two byte windows `(base, size)` share no address; an empty window shares none with any. -/
abbrev Apart (r q : Nat × Nat) : Prop := r.2 = 0 ∨ q.2 = 0 ∨ r.1 + r.2 ≤ q.1 ∨ q.1 + q.2 ≤ r.1

/-- The windows of the four pixel regions, each `(base, size in bytes)`, for frames of `n` pixels (20_memory.md R70). -/
abbrev Params.pixelWindows (p : Params) (n : Nat) : List (Nat × Nat) :=
  [(p.fb0Base, 2 * n), (p.fb1Base, 2 * n), (p.lb0Base, 2 * p.pw), (p.lb1Base, 2 * p.pw)]

/-- The windows of the two register blocks (30_encoding.md R101, R103). -/
abbrev Params.registerWindows (p : Params) : List (Nat × Nat) := [(p.regBase, 0x4C), (p.evtBase, 8)]

/-- 20_memory.md R70 for frames of `n` pixels: the pixel regions overlap neither one another nor the register blocks. -/
abbrev Params.WindowsApart (p : Params) (n : Nat) : Prop :=
  (p.pixelWindows n).Pairwise Apart ∧ ∀ r ∈ p.pixelWindows n, ∀ q ∈ p.registerWindows, Apart r q

/-- What 00_scope.md section 5 and 20_memory.md R68, R70 ask of the parameters alone: a panel of 1 to 8191 by 1 to 8191
pixels, aligned bases, and the regions that are always in use (the line buffers; the frames are empty) apart from one another and
from the register blocks. Where the frames lie depends on the size in use: `State.WindowsApart`. -/
abbrev Params.Valid (p : Params) : Prop :=
  (1 ≤ p.pw ∧ p.pw ≤ maxDim) ∧ (1 ≤ p.ph ∧ p.ph ≤ maxDim) ∧
  (p.fb0Base % 2 = 0 ∧ p.fb1Base % 2 = 0 ∧ p.lb0Base % 2 = 0 ∧ p.lb1Base % 2 = 0) ∧
  (p.regBase % 4 = 0 ∧ p.evtBase % 4 = 0) ∧ p.WindowsApart 0

namespace Config

/-- DESIGN CHOICE (log 2): the parameters of the one `State.reset`. The panel is the 720 by 720 one of the spec's
scenario (95_test_vectors.md T6); the spec leaves every one of these values open (93_implementation_defined.md U20). -/
def params : Params where
  pw := 720
  ph := 720
  fb0Base := 0x10000000
  fb1Base := 0x20000000
  lb0Base := 0x30000000
  lb1Base := 0x30010000
  regBase := 0x40000000
  evtBase := 0x40001000

/-- FREE VALUE (log 3): byte `addr` of a frame that nothing has written since draw number `draw`; 20_memory.md R65,
"an arbitrary 16-bit value that a model must treat as a free input of the run (a draw made once, at the `INIT`)". -/
opaque freeFrameByte (draw addr : Nat) : Byte

/-- FREE VALUE (log 4): what the display sees in pixel `x` of line buffer `b` while its content is unspecified: from reset
to the first successful `INIT` and after `TEARDOWN` (20_memory.md R66, 93_implementation_defined.md U8). -/
opaque freeLinePixel (draw : Nat) (b : Bool) (x : Nat) : Pixel

end Config

end Sys2Proof
end

