-- ==== Sys2Proof/Machine/State.lean ====
section
/-! DEFINITION. The state of the block (10_state.md R20), of the memories it works on (20_memory.md R60), and of the agents
that drive it (20_memory.md R74); the reasons a step can stop; the state after reset (10_state.md R48). -/

namespace Sys2Proof.Machine

/-- Byte-addressed memory: the bytes that have been written, by strictly rising address. What an unlisted address reads as
is no value of this list but a free one (log 3). -/
abbrev Memory := List Host.Cell

/-- The ten values of GeometryState (10_state.md R27): exact integers as `geom` computes them (`Geometry Int`), or the ten
32-bit registers (`Geometry Word`). -/
structure Geometry (α : Type) where
  offsetX : α
  offsetY : α
  startOffset : α
  increment : α
  validSpan : α
  lineWidth : α
  lineBase : α
  stride : α
  dstStart : α
  linesPerFrame : α
  deriving DecidableEq, Repr

/-- The result codes (60_exceptions.md R231); codes 5 to 15 are never written. -/
inductive ResultCode where
  /-- 0. -/
  | ok
  /-- 1: `geom` returned `error`. -/
  | errConfig
  /-- 2: `ALLOC_OK` was 0 at the `INIT`. -/
  | errNomem
  /-- 3: the word on `CMD` is no command. -/
  | errUnsupported
  /-- 4: the command is not allowed in the present state. -/
  | errState
  deriving DecidableEq, Repr

/-- The register `RESULT` (10_state.md R45). -/
structure CmdResult where
  code : ResultCode
  val : Bool
  deriving DecidableEq, Repr

/-- `STATUS.PEND` (10_state.md R43): the held command, if any; the encoding 3 never occurs. -/
inductive Held where
  /-- 0: no command is held. -/
  | none
  /-- 1: a `WAIT_VSYNC` is held. -/
  | waitVsync
  /-- 2: a `PUBLISH` is held. -/
  | publish
  deriving DecidableEq, Repr

/-- `STATUS.LASTB` (10_state.md R42): the branch of the last frame boundary; the encoding 1 never occurs. -/
inductive LastBoundary where
  /-- 0: no frame boundary since `INIT`. -/
  | none
  /-- 2. -/
  | signalReady
  /-- 3. -/
  | hold
  deriving DecidableEq, Repr

/-- `STATUS.SYNC` (10_state.md R41): the synchronizer's state (42_synchronizer.md R178). -/
inductive SyncState where
  /-- 0. -/
  | scanning
  /-- 1. -/
  | frameBoundary
  /-- 2. -/
  | signalReady
  /-- 3. -/
  | hold
  deriving DecidableEq, Repr

/-- One step of one agent, as an interleaving lists them (20_memory.md R74, 30_encoding.md R104, R107). An access to a
register block names the byte offset in its block, its width in bytes, and the data written. -/
inductive AgentStep where
  /-- The host agent's bus writes to the register block (30_encoding.md R102, R103). -/
  | hostWrite (off width : Nat) (v : Word)
  /-- The host agent's bus reads the register block (30_encoding.md R103). -/
  | hostRead (off width : Nat)
  /-- The scheduler gives the host agent its turn: the commit step of a held command, or the issue step of a stalled write
  (43_handoff.md R186). -/
  | hostTurn
  /-- The display hardware writes to the event block (30_encoding.md R101). -/
  | evtWrite (off width : Nat) (v : Word)
  /-- The display hardware reads the event block (30_encoding.md R101). -/
  | evtRead (off width : Nat)
  /-- `FBWRITE f, i, v`: the producer writes pixel `i` of frame `f` (30_encoding.md R107). -/
  | fbWrite (f : Bool) (i : Nat) (v : Pixel)
  /-- The producer reads pixel `i` of frame `f` (60_exceptions.md R245). -/
  | fbRead (f : Bool) (i : Nat)
  /-- The producer writes pixel `x` of line buffer `b`, which it must never do (70_reset_and_hazards.md R267,
  93_implementation_defined.md U6). -/
  | lbWrite (b : Bool) (x : Nat) (v : Pixel)
  /-- The display hardware reads pixel `x` of line buffer `b` (20_memory.md R63, R72). -/
  | lbRead (b : Bool) (x : Nat)
  /-- `ALLOC ok`: drive the wire `alloc_ok` (30_encoding.md R107). -/
  | alloc (ok : Bool)
  /-- Drive the wire `rst` (70_reset_and_hazards.md R260). -/
  | rst (level : Bool)
  deriving DecidableEq, Repr

/-- The machine's state. Field by field it is the list under "State" of INVENTORY.md. -/
structure State where
  /-- The parameters; `PANEL` reads `pw` and `ph` (10_state.md R23). No step writes them (log 2). -/
  par : Params
  /-- `CFG_DIM.LW` (10_state.md R22). -/
  lw : BitVec 13
  /-- `CFG_DIM.LH` (10_state.md R22). -/
  lh : BitVec 13
  /-- `XFORM.SCALE` (10_state.md R24). -/
  scale : BitVec 2
  /-- `XFORM.ROT` (10_state.md R24). -/
  rot : Bool
  /-- `XFORM.POLICY` (10_state.md R24). -/
  policy : Policy
  /-- The ten `GEOM_*` registers (10_state.md R27). -/
  geom : Geometry Word
  /-- `CUR_SRC_OFFSET`, signed (10_state.md R29). -/
  curSrc : Word
  /-- `CUR_LINE_COUNT`, unsigned (10_state.md R30). -/
  curCount : Word
  /-- `STATUS.URF` (10_state.md R31). -/
  urf : Bool
  /-- `STATUS.INITED` (10_state.md R39). -/
  inited : Bool
  /-- `STATUS.EN` (10_state.md R39). -/
  en : Bool
  /-- `STATUS.GEOM_VALID` (10_state.md R40). -/
  geomValid : Bool
  /-- `STATUS.FRONT`: the index of the front frame (10_state.md R38). -/
  front : Bool
  /-- `STATUS.FR`: frame-ready-for-display (10_state.md R34). -/
  fr : Bool
  /-- `STATUS.ACK`: buffer-consumption-acknowledged (10_state.md R35). -/
  ack : Bool
  /-- `STATUS.SYNC` (10_state.md R41). -/
  sync : SyncState
  /-- `STATUS.LASTB` (10_state.md R42). -/
  lastb : LastBoundary
  /-- `STATUS.PEND` (10_state.md R43). -/
  pend : Held
  /-- `STATUS.FBVALID` bit 13: `FB[0]` exists (10_state.md R44). -/
  fbValid0 : Bool
  /-- `STATUS.FBVALID` bit 14: `FB[1]` exists (10_state.md R44). -/
  fbValid1 : Bool
  /-- `RESULT` (10_state.md R45). -/
  result : CmdResult
  /-- `BACKLIGHT.PCT` (10_state.md R46). -/
  backlight : BitVec 7
  /-- `EVT_RESP.REARM` (10_state.md R47). -/
  rearm : Bool
  /-- The platform's memory as the display and the producer see it: `FB[0]`, `FB[1]`, `LBdev[0]`, `LBdev[1]`
  (20_memory.md R60, R72). -/
  mem : Memory
  /-- The engine's view of the line buffers, `LB[0]` and `LB[1]`, at the same addresses (20_memory.md R72). -/
  lbEng : Memory
  /-- The wire `alloc_ok` (30_encoding.md R104). -/
  allocOk : Bool
  /-- The wire `rst` (30_encoding.md R104). -/
  rstIn : Bool
  /-- The model's own: which draw of unspecified content is in force (log 3). -/
  draw : Nat
  /-- The model's own: the agents' steps still to come, in the order in which they happen (log 1). -/
  schedule : List AgentStep
  /-- The model's own: writes to `CMD` that the port has not accepted yet, oldest first (log 7). -/
  stalled : List Word
  /-- The model's own: the data of the last read an agent made (log 12). -/
  bus : Word
  deriving DecidableEq, Repr

/-- The reasons a step stops with a fault. Both are the environment's doing: no instruction faults (log 8). -/
inductive Fault where
  /-- Raised by a producer access to pixel `i` of frame `f` that does not exist: the frame's storage is not allocated, or
  `i` is not below `LW * LH` (20_memory.md R62). Safe: the spec gives such an access no meaning. -/
  | noFramePixel (f : Bool) (i : Nat)
  /-- Raised by an access of the environment to pixel `x` of line buffer `b` that does not exist: `x` is not below `PW`
  (20_memory.md R63). Safe: the spec gives such an access no meaning. -/
  | noLinePixel (b : Bool) (x : Nat)
  deriving DecidableEq, Repr

/-- The reasons a step is refused. -/
inductive Refusal where
  /-- Raised by `exec` for an instruction that has no meaning yet; no arm does. Safe. -/
  | notModelled (mnemonic : String)
  deriving DecidableEq, Repr

/-- Every `GEOM_*` register at 0 (10_state.md R27). -/
def Geometry.zero : Geometry Word := ⟨0, 0, 0, 0, 0, 0, 0, 0, 0, 0⟩

/-- The state right after reset on a platform with parameters `p` (10_state.md R48, 70_reset_and_hazards.md R260): all
zero but `XFORM.SCALE = 1` and the hardwired `PANEL`. `allocOk` is the default of 30_encoding.md R107 (log 11). -/
def State.resetWith (p : Params) : State where
  par := p
  lw := 0
  lh := 0
  scale := 1
  rot := false
  policy := .throughput
  geom := Geometry.zero
  curSrc := 0
  curCount := 0
  urf := false
  inited := false
  en := false
  geomValid := false
  front := false
  fr := false
  ack := false
  sync := .scanning
  lastb := .none
  pend := .none
  fbValid0 := false
  fbValid1 := false
  result := ⟨.ok, false⟩
  backlight := 0
  rearm := false
  mem := []
  lbEng := []
  allocOk := true
  rstIn := false
  draw := 0
  schedule := []
  stalled := []
  bus := 0

/-- The state right after reset, with the parameters `Config.params` (log 2). -/
def State.reset : State := State.resetWith Config.params

end Sys2Proof.Machine
end

