-- ==== Sys2Proof/Machine/Memory.lean ====
section
/-! DEFINITION. The operations on byte-addressed memory (20_memory.md section 1): read one byte, store a run of bytes,
forget a range, copy a range from one view to another. -/

namespace Sys2Proof.Machine

/-- The canonical form: addresses strictly rising. No entry can equal what an unlisted address reads as, since an unlisted
address has no value of its own (log 3). -/
abbrev Memory.wf (m : Memory) : Prop := m.Pairwise (fun c d => c.1 < d.1)

/-- The byte last written at an address, if any was. -/
def Memory.load (m : Memory) (a : Nat) : Option Byte := (m.find? (fun c => c.1 == a)).map (·.2)

/-- The entries at addresses below `a`. -/
def Memory.below (m : Memory) (a : Nat) : Memory := m.filter (fun c => decide (c.1 < a))

/-- The entries at addresses `a` and above. -/
def Memory.atLeast (m : Memory) (a : Nat) : Memory := m.filter (fun c => decide (a ≤ c.1))

/-- The entries of a run of bytes stored from address `a` upward. -/
def Memory.run : Nat → List Byte → Memory
  | _, [] => []
  | a, b :: bs => (a, b) :: Memory.run (a + 1) bs

/-- Store a run of bytes from address `a` upward. -/
def Memory.store (m : Memory) (a : Nat) (bs : List Byte) : Memory :=
  m.below a ++ Memory.run a bs ++ m.atLeast (a + bs.length)

/-- Forget the bytes at addresses `lo ≤ a < hi`: nothing has written them. -/
def Memory.forget (m : Memory) (lo hi : Nat) : Memory :=
  m.filter (fun c => decide (c.1 < lo) || decide (hi ≤ c.1))

/-- The entries at addresses `lo ≤ a < hi`. -/
def Memory.slice (m : Memory) (lo hi : Nat) : Memory :=
  m.filter (fun c => decide (lo ≤ c.1) && decide (c.1 < hi))

/-- Make `dst` agree with `src` at the addresses `lo ≤ a < hi` and keep it elsewhere (20_memory.md R72). -/
def Memory.copyRange (src dst : Memory) (lo hi : Nat) : Memory :=
  dst.below lo ++ src.slice lo hi ++ dst.atLeast (max lo hi)

end Sys2Proof.Machine
end

