-- ==== Sys2Proof/Machine/Operands.lean ====
section
/-! DEFINITION. Operands and addresses: what a command's operand field holds (30_encoding.md R98), where the pixels of the
four arrays lie and what they hold (20_memory.md R62, R63, R67), the source row of a line event (41_scanout.md R154). -/

namespace Sys2Proof.Machine

/-- A dimension operand as the 13-bit field `CFG_DIM` holds it (10_state.md R22). -/
def dimField (v : Nat) : BitVec 13 := BitVec.ofNat 13 v

/-- A scale operand as the 2-bit field `XFORM.SCALE` holds it (10_state.md R24). -/
def scaleField (v : Nat) : BitVec 2 := BitVec.ofNat 2 v

/-- The byte address of `FB[f]` (20_memory.md R62). -/
def fbBase (p : Params) (f : Bool) : Nat := if f then p.fb1Base else p.fb0Base

/-- The byte address of `LB[b]` (20_memory.md R63). -/
def lbBase (p : Params) (b : Bool) : Nat := if b then p.lb1Base else p.lb0Base

/-- The byte address of `FB[f][i]` (20_memory.md R62). -/
def fbAddr (p : Params) (f : Bool) (i : Nat) : Nat := fbBase p f + 2 * i

/-- The byte address of `LB[b][x]` (20_memory.md R63). -/
def lbAddr (p : Params) (b : Bool) (x : Nat) : Nat := lbBase p b + 2 * x

/-- The bytes of a pixel, low byte first (20_memory.md R67). -/
def pixelBytes (v : Pixel) : List Byte := [v.extractLsb' 0 8, v.extractLsb' 8 8]

/-- The bytes of a run of pixels, pixel 0 first. -/
def runBytes (vs : List Pixel) : List Byte := vs.flatMap pixelBytes

/-- The pixel of two bytes, low byte first (20_memory.md R67). -/
def pixelOfBytes (lo hi : Byte) : Pixel := hi ++ lo

/-- The number of pixels of a frame, `LW * LH` (20_memory.md R62). -/
def State.framePixels (s : State) : Nat := s.lw.toNat * s.lh.toNat

/-- `FBVALID[f]` (10_state.md R44). -/
def State.fbValid (s : State) (f : Bool) : Bool := if f then s.fbValid1 else s.fbValid0

/-- A byte of the platform's memory: the last one written, or a free value where nothing has been written since the draw in
force (20_memory.md R65; log 3). -/
def State.byteAt (s : State) (a : Nat) : Byte := (s.mem.load a).getD (Config.freeFrameByte s.draw a)

/-- `FB[f][i]` (20_memory.md R62, R67). -/
def State.framePixel (s : State) (f : Bool) (i : Nat) : Pixel :=
  pixelOfBytes (s.byteAt (fbAddr s.par f i)) (s.byteAt (fbAddr s.par f i + 1))

/-- `LB[b][x]` in the engine's view, if it has been written (20_memory.md R72). -/
def State.enginePixel? (s : State) (b : Bool) (x : Nat) : Option Pixel :=
  match s.lbEng.load (lbAddr s.par b x), s.lbEng.load (lbAddr s.par b x + 1) with
  | some lo, some hi => some (pixelOfBytes lo hi)
  | _, _ => none

/-- `LBdev[b][x]`: what the display hardware reads (20_memory.md R72); a free value while the content of the line buffers is
unspecified, which is while the block is not initialised (20_memory.md R66; log 4). -/
def State.devicePixel (s : State) (b : Bool) (x : Nat) : Pixel :=
  if s.inited then pixelOfBytes (s.byteAt (lbAddr s.par b x)) (s.byteAt (lbAddr s.par b x + 1))
  else Config.freeLinePixel s.draw b x

/-- The scale factor `S` (00_scope.md R13). -/
def State.scaleFactor (s : State) : Nat := s.scale.toNat

/-- The number of source pixels a line shows, `GEOM_LINE_WIDTH` (40_geometry.md R130). -/
def State.sourceCount (s : State) : Nat := s.geom.lineWidth.toInt.toNat

/-- The source index of source pixel `j` of the line (41_scanout.md R154). -/
def State.sourceIndex (s : State) (j : Int) : Int :=
  s.geom.lineBase.toInt + s.curSrc.toInt + j * s.geom.stride.toInt

/-- The source pixels of the line, in the order they are read, from `FB[FRONT]` (41_scanout.md R154, R161). -/
def State.sourceRun (s : State) : List Pixel :=
  (List.range s.sourceCount).map (fun (j : Nat) => s.framePixel s.front (s.sourceIndex j).toNat)

/-- Horizontal replication: each pixel `n` times, in order (41_scanout.md R163). -/
def replicatePixels (n : Nat) (vs : List Pixel) : List Pixel := vs.flatMap (fun v => List.replicate n v)

/-- A blank run of `n` pixels (41_scanout.md R155). -/
def blankRun (n : Nat) : List Pixel := List.replicate n 0x0000

/-- The first pixel of the written range, `GEOM_DST_START` (40_geometry.md R131). -/
def State.dstFirst (s : State) : Nat := s.geom.dstStart.toInt.toNat

end Sys2Proof.Machine
end

