-- ==== Sys2Proof/Machine/Flags.lean ====
section
/-! DEFINITION. The bits of the status register and of the other registers as the ports read them (10_state.md R22 to R47),
the wires (30_encoding.md R104), and the two operations on a binary signal (20_memory.md R75, R76). -/

namespace Sys2Proof.Machine

/-- The two binary signals (10_state.md R34, R35). -/
inductive Signal where
  /-- `STATUS.FR`. -/
  | fr
  /-- `STATUS.ACK`. -/
  | ack
  deriving DecidableEq, Repr

/-- `give(sig)`: set the signal, whatever it held (20_memory.md R75). -/
def State.give (s : State) : Signal → State
  | .fr => { s with fr := true }
  | .ack => { s with ack := true }

/-- Whether a signal is available (20_memory.md R76). -/
def State.available (s : State) : Signal → Bool
  | .fr => s.fr
  | .ack => s.ack

/-- Consume a signal: it is 0 afterwards (20_memory.md R76). -/
def State.consume (s : State) : Signal → State
  | .fr => { s with fr := false }
  | .ack => { s with ack := false }

/-- `take(sig)`: the non-blocking attempt. `true` and the signal cleared where it was available; `false` and nothing changed
where it was not (20_memory.md R76). -/
def State.take (s : State) (sig : Signal) : Bool × State :=
  if s.available sig then (true, s.consume sig) else (false, s)

/-- The code's number (60_exceptions.md R231). -/
def ResultCode.number : ResultCode → Nat
  | .ok => 0
  | .errConfig => 1
  | .errNomem => 2
  | .errUnsupported => 3
  | .errState => 4

/-- The encoding of `PEND` (10_state.md R43). -/
def Held.number : Held → Nat
  | .none => 0
  | .waitVsync => 1
  | .publish => 2

/-- The encoding of `LASTB` (10_state.md R42). -/
def LastBoundary.number : LastBoundary → Nat
  | .none => 0
  | .signalReady => 2
  | .hold => 3

/-- The encoding of `SYNC` (10_state.md R41). -/
def SyncState.number : SyncState → Nat
  | .scanning => 0
  | .frameBoundary => 1
  | .signalReady => 2
  | .hold => 3

/-- The word with a number in the field that starts at bit `lo`. -/
def fieldAt (v lo : Nat) : Word := BitVec.ofNat 32 v <<< lo

/-- The word with one bit at position `i`. -/
def bitAt (b : Bool) (i : Nat) : Word := fieldAt b.toNat i

/-- The register `STATUS` (10_state.md R33). -/
def State.statusWord (s : State) : Word :=
  bitAt s.inited 0 ||| bitAt s.en 1 ||| bitAt s.geomValid 2 ||| bitAt s.front 3 ||| bitAt s.fr 4 ||| bitAt s.ack 5 |||
  bitAt s.urf 6 ||| fieldAt s.sync.number 7 ||| fieldAt s.lastb.number 9 ||| fieldAt s.pend.number 11 |||
  bitAt s.fbValid0 13 ||| bitAt s.fbValid1 14

/-- The register `CFG_DIM` (10_state.md R22). -/
def State.cfgDimWord (s : State) : Word := fieldAt s.lw.toNat 0 ||| fieldAt s.lh.toNat 16

/-- The hardwired register `PANEL`: 13-bit fields that read the parameters (10_state.md R23). -/
def State.panelWord (s : State) : Word := fieldAt (s.par.pw % 2 ^ 13) 0 ||| fieldAt (s.par.ph % 2 ^ 13) 16

/-- The register `XFORM` (10_state.md R24). -/
def State.xformWord (s : State) : Word :=
  fieldAt s.scale.toNat 0 ||| bitAt s.rot 2 ||| bitAt (decide (s.policy = .tearfree)) 3

/-- The register `RESULT` (10_state.md R45). -/
def State.resultWord (s : State) : Word := fieldAt s.result.code.number 0 ||| bitAt s.result.val 4

/-- The register `BACKLIGHT` (10_state.md R46). -/
def State.backlightWord (s : State) : Word := fieldAt s.backlight.toNat 0

/-- The register `EVT_RESP` (10_state.md R47). -/
def State.evtRespWord (s : State) : Word := bitAt s.rearm 0

/-- The host register block: what a 32-bit read at a byte offset gives. `CMD` reads 0, and so do the offsets past the map
(30_encoding.md R103). -/
def State.hostReg (s : State) (off : Nat) : Word :=
  match off with
  | 0x04 => s.resultWord
  | 0x08 => s.statusWord
  | 0x0C => s.cfgDimWord
  | 0x10 => s.panelWord
  | 0x14 => s.xformWord
  | 0x18 => s.geom.offsetX
  | 0x1C => s.geom.offsetY
  | 0x20 => s.geom.startOffset
  | 0x24 => s.geom.increment
  | 0x28 => s.geom.validSpan
  | 0x2C => s.geom.lineWidth
  | 0x30 => s.geom.lineBase
  | 0x34 => s.geom.stride
  | 0x38 => s.geom.dstStart
  | 0x3C => s.geom.linesPerFrame
  | 0x40 => s.curSrc
  | 0x44 => s.curCount
  | 0x48 => s.backlightWord
  | _ => 0

/-- The event block: what a 32-bit read at a byte offset gives. `EVT` reads 0 (30_encoding.md R101). -/
def State.evtReg (s : State) (off : Nat) : Word :=
  match off with
  | 0x4 => s.evtRespWord
  | _ => 0

/-- The output wires (30_encoding.md R104, 60_exceptions.md R238). -/
structure Wires where
  frameReady : Bool
  bufAck : Bool
  front : Bool
  busy : Bool
  blPct : BitVec 7
  deriving DecidableEq, Repr

/-- What the block drives on its output wires (30_encoding.md R104). -/
def State.wires (s : State) : Wires where
  frameReady := s.fr
  bufAck := s.ack
  front := s.front
  busy := decide (s.pend ≠ .none)
  blPct := s.backlight

end Sys2Proof.Machine
end

