-- ==== Sys2Proof/Machine/Ops.lean ====
section
/-! DEFINITION. The operations the instructions share: `result` (60_exceptions.md R230), `cursor <- start`
(10_state.md R36), the engine's stores to a line buffer and the flush (20_memory.md R72), the zero fill (R66), and the
release of the frames' content (R65). -/

namespace Sys2Proof.Machine

/-- `result(code, val)`: the one error mechanism, in the place of an exception. It writes `RESULT`; nothing is saved and
control goes nowhere, so there is no return from it either (60_exceptions.md R230). -/
def State.setResult (s : State) (code : ResultCode) (val : Bool) : State := { s with result := ⟨code, val⟩ }

/-- A command that completes with a code and a value (10_state.md R45). -/
def complete (s : State) (code : ResultCode) (val : Bool) : Host.Outcome State Fault Refusal :=
  .next (s.setResult code val)

/-- `cursor <- start` (10_state.md R36). -/
def State.cursorStart (s : State) : State :=
  { s with curSrc := s.geom.startOffset, curCount := 0, urf := false }

/-- The engine writes a run of pixels into its view of line buffer `b` from pixel `x0` (20_memory.md R72). -/
def State.lineStore (s : State) (b : Bool) (x0 : Nat) (vs : List Pixel) : State :=
  { s with lbEng := s.lbEng.store (lbAddr s.par b x0) (runBytes vs) }

/-- `flush(b, x0, x1)`: the device's view of pixels `x0 ≤ x < x1` becomes the engine's (20_memory.md R72). -/
def State.flush (s : State) (b : Bool) (x0 x1 : Nat) : State :=
  { s with mem := s.lbEng.copyRange s.mem (lbAddr s.par b x0) (lbAddr s.par b x1) }

/-- Write a run of pixels into line buffer `b` from pixel `x0` and flush exactly the range written (20_memory.md R72,
41_scanout.md R156). -/
def State.lineWrite (s : State) (b : Bool) (x0 : Nat) (vs : List Pixel) : State :=
  (s.lineStore b x0 vs).flush b x0 (x0 + vs.length)

/-- All `PW` pixels of line buffer `b` written with `0x0000` and flushed (41_scanout.md R155). -/
def State.blankLine (s : State) (b : Bool) : State := s.lineWrite b 0 (blankRun s.par.pw)

/-- The zero fill of both line buffers (20_memory.md R66). -/
def State.zeroFill (s : State) : State := (s.blankLine false).blankLine true

/-- The storage of both frames is new: no byte of it has been written, and its content is a new draw (20_memory.md R65). -/
def State.newFrames (s : State) : State :=
  { s with
    mem := (s.mem.forget (fbAddr s.par false 0) (fbAddr s.par false s.framePixels)).forget
      (fbAddr s.par true 0) (fbAddr s.par true s.framePixels)
    draw := s.draw + 1 }

end Sys2Proof.Machine
end

