-- ==== Sys2Proof/Machine/Handoff.lean ====
section
/-! DEFINITION. The Double-Buffer Handoff (43_handoff.md): `ACQUIRE`, `PUBLISH`, `WAIT_VSYNC`, `POLL_VSYNC`, and the commit
step of a held command. The meanings are the issue steps of a command the port has accepted (R186). -/

namespace Sys2Proof.Machine

/-- The part of `PUBLISH f` after the `await`: one indivisible handoff (43_handoff.md R189, R193). -/
def State.handoff (s : State) (f : Bool) : State :=
  (({ s with front := f }).consume .fr).give .ack |>.setResult .ok s.fr

/-- The part of `WAIT_VSYNC` after the `await` (43_handoff.md R194). -/
def State.takeVsync (s : State) : State := (s.consume .fr).setResult .ok true

/-- The commit step of the held command; it is enabled with `FR = 1` (43_handoff.md R186). A held `PUBLISH` publishes the back
frame, `1 - FRONT`: its operand passed that check at the issue step and `FRONT` cannot change while it is held (R190; log 6). -/
def State.commitHeld (s : State) : State :=
  match s.pend with
  | .none => s
  | .waitVsync => { s.takeVsync with pend := .none }
  | .publish => { s.handoff (!s.front) with pend := .none }

/-- `ACQUIRE` (43_handoff.md R187). -/
def execAcquire (s : State) : Host.Outcome State Fault Refusal :=
  if !s.inited then complete s .errState false
  else complete s .ok (!s.front)

/-- `PUBLISH f`, the issue step: it completes at once or is held (43_handoff.md R189 to R191). -/
def execPublish (f : Bool) (s : State) : Host.Outcome State Fault Refusal :=
  if !s.inited then complete s .errState false
  else if f == s.front then complete s .errState false
  else if s.policy = .tearfree ∧ s.fr = false then .next { s with pend := .publish }
  else .next (s.handoff f)

/-- `WAIT_VSYNC`, the issue step: it completes at once or is held, under both policies (43_handoff.md R194, R195). -/
def execWaitVsync (s : State) : Host.Outcome State Fault Refusal :=
  if !s.inited then complete s .errState false
  else if s.fr then .next s.takeVsync
  else .next { s with pend := .waitVsync }

/-- `POLL_VSYNC` (43_handoff.md R196). -/
def execPollVsync (s : State) : Host.Outcome State Fault Refusal :=
  if !s.inited then complete s .errState false
  else
    match s.take .fr with
    | (v, s') => complete s' .ok v

end Sys2Proof.Machine
end

