-- ==== Sys2Proof/Machine/Geometry.lean ====
section
/-! DEFINITION. The Geometry Calculator (40_geometry.md): the function `geom` (`calcGeom` here), and `SET_XFORM`, `RECOMPUTE`. -/

namespace Sys2Proof.Machine

/-- The offset that centres `along * s` panel pixels in a panel extent `p`: halved, truncated toward zero
(40_geometry.md R127, 00_scope.md R10). -/
def centerOffset (p along s : Nat) : Int := Int.tdiv ((p : Int) - (along : Int) * (s : Int)) 2

/-- The source pixels skipped where the content overflows the panel (40_geometry.md R129). -/
def skipCount (off : Int) (s : Nat) : Int := if off < 0 then (-off) / (s : Int) else 0

/-- The source pixels a line shows (40_geometry.md R130). -/
def lineWidthOf (pw along s : Nat) : Nat := if along * s > pw then pw / s else along

/-- The configuration errors (40_geometry.md R125). -/
def geomError (w h pw ph s : Nat) : Bool := w == 0 || h == 0 || s == 0 || pw / s == 0 || ph / s == 0

/-- The ten values for a picture that is not rotated (40_geometry.md R124). -/
def geomPlain (w h pw ph s : Nat) : Geometry Int where
  offsetX := centerOffset pw w s
  offsetY := centerOffset ph h s
  startOffset := skipCount (centerOffset ph h s) s * w + skipCount (centerOffset pw w s) s
  increment := w
  validSpan := w * h
  lineWidth := lineWidthOf pw w s
  lineBase := 0
  stride := 1
  dstStart := max (centerOffset pw w s) 0
  linesPerFrame := (ph / s : Nat)

/-- The ten values for a rotated picture: the logical height lies along the line axis (40_geometry.md R124, R126). -/
def geomRotated (w h pw ph s : Nat) : Geometry Int where
  offsetX := centerOffset ph w s
  offsetY := centerOffset pw h s
  startOffset := skipCount (centerOffset ph w s) s
  increment := 1
  validSpan := w
  lineWidth := lineWidthOf pw h s
  lineBase := ((h : Int) - 1 - skipCount (centerOffset pw h s) s) * w
  stride := -(w : Int)
  dstStart := max (centerOffset pw h s) 0
  linesPerFrame := (ph / s : Nat)

/-- `geom(W, H, PW, PH, S, ROT)`: `none` for `error` (40_geometry.md R124). -/
def calcGeom (w h pw ph s : Nat) (rot : Bool) : Option (Geometry Int) :=
  if geomError w h pw ph s then none
  else if rot then some (geomRotated w h pw ph s)
  else some (geomPlain w h pw ph s)

/-- The ten registers that hold ten values, in 32-bit two's complement (00_scope.md R9, 40_geometry.md R139). -/
def Geometry.toRegs (g : Geometry Int) : Geometry Word where
  offsetX := BitVec.ofInt 32 g.offsetX
  offsetY := BitVec.ofInt 32 g.offsetY
  startOffset := BitVec.ofInt 32 g.startOffset
  increment := BitVec.ofInt 32 g.increment
  validSpan := BitVec.ofInt 32 g.validSpan
  lineWidth := BitVec.ofInt 32 g.lineWidth
  lineBase := BitVec.ofInt 32 g.lineBase
  stride := BitVec.ofInt 32 g.stride
  dstStart := BitVec.ofInt 32 g.dstStart
  linesPerFrame := BitVec.ofInt 32 g.linesPerFrame

/-- `geom` of two dimension fields and the present `XFORM`, on this panel (40_geometry.md R121). -/
def State.geomOf (s : State) (w h : BitVec 13) : Option (Geometry Int) :=
  calcGeom w.toNat h.toNat s.par.pw s.par.ph s.scaleFactor s.rot

/-- Load GeometryState, mark it valid, start the cursor and zero-fill both line buffers: what a successful `INIT` and a
successful `RECOMPUTE` share (40_geometry.md R123, 44_lifecycle.md R205, 20_memory.md R66). -/
def State.loadGeometry (s : State) (g : Geometry Int) : State :=
  ({ s with geom := g.toRegs, geomValid := true }).cursorStart.zeroFill

/-- `SET_XFORM scale, rot` (40_geometry.md R122). -/
def execSetXform (scale : Nat) (rot : Bool) (s : State) : Host.Outcome State Fault Refusal :=
  if s.en then complete s .errState false
  else complete { s with scale := scaleField scale, rot := rot, geomValid := false } .ok false

/-- `RECOMPUTE` (40_geometry.md R123). -/
def execRecompute (s : State) : Host.Outcome State Fault Refusal :=
  if !s.inited || s.en then complete s .errState false
  else
    match s.geomOf s.lw s.lh with
    | none => complete { s with geomValid := false } .errConfig false
    | some g => complete (s.loadGeometry g) .ok false

end Sys2Proof.Machine
end

