-- ==== Sys2Proof/Machine/Lifecycle.lean ====
section
/-! DEFINITION. The lifecycle and boundary commands (44_lifecycle.md): `INIT`, `ENABLE`, `DISABLE`, `TEARDOWN`,
`SET_BACKLIGHT`. -/

namespace Sys2Proof.Machine

/-- What a successful `INIT` does with the geometry it computed (44_lifecycle.md R205). The frames' storage is new before the
line buffers are filled. -/
def State.beginSession (s : State) (pol : Policy) (w h : BitVec 13) (g : Geometry Int) : State :=
  let s1 := ({ s with lw := w, lh := h, policy := pol }).newFrames
  let s2 := { s1 with front := false, fbValid0 := true, fbValid1 := true, lastb := .none }
  { ((s2.give .fr).give .ack).loadGeometry g with inited := true }

/-- `INIT pol, w, h` (44_lifecycle.md R205 to R209): the three tests in their order, then everything or nothing. -/
def execInit (pol : Policy) (w h : Nat) (s : State) : Host.Outcome State Fault Refusal :=
  if s.inited then complete s .errState false
  else
    match s.geomOf (dimField w) (dimField h) with
    | none => complete s .errConfig false
    | some g =>
      if !s.allocOk then complete s .errNomem false
      else complete (s.beginSession pol (dimField w) (dimField h) g) .ok false

/-- `ENABLE` (44_lifecycle.md R210). -/
def execEnable (s : State) : Host.Outcome State Fault Refusal :=
  if !s.inited || !s.geomValid then complete s .errState false
  else if s.en then complete s .ok false
  else complete ({ s with en := true }).cursorStart .ok false

/-- `DISABLE` (44_lifecycle.md R212). -/
def execDisable (s : State) : Host.Outcome State Fault Refusal :=
  complete { s with en := false } .ok false

/-- Everything `INIT` writes goes back to 0 (44_lifecycle.md R215); the content of the line buffers is unspecified from here
on, a new draw (20_memory.md R66; log 4). -/
def State.endSession (s : State) : State :=
  { s with
    inited := false, geomValid := false, front := false, fr := false, ack := false, urf := false, lastb := .none
    fbValid0 := false, fbValid1 := false, lw := 0, lh := 0, policy := .throughput
    geom := Geometry.zero, curSrc := 0, curCount := 0, draw := s.draw + 1 }

/-- `TEARDOWN` (44_lifecycle.md R215, R216). -/
def execTeardown (s : State) : Host.Outcome State Fault Refusal :=
  if !s.inited || s.en then complete s .errState false
  else complete s.endSession .ok false

/-- `SET_BACKLIGHT pct`: a percentage above 100 is silently ignored (44_lifecycle.md R218). -/
def execSetBacklight (pct : Nat) (s : State) : Host.Outcome State Fault Refusal :=
  if pct ≤ 100 then complete { s with backlight := BitVec.ofNat 7 pct } .ok false
  else complete s .ok false

end Sys2Proof.Machine
end

