-- ==== Sys2Proof/Machine/Synchronizer.lean ====
section
/-! DEFINITION. The Frame Synchronizer (42_synchronizer.md): the frame boundary inside `LINE`, as the state machine of R178. -/

namespace Sys2Proof.Machine

/-- The boundary's branch `SIGNAL_READY`: give `FR` (42_synchronizer.md R173, R174). -/
def State.signalReady (s : State) : State :=
  { s.give .fr with lastb := .signalReady, sync := .signalReady }

/-- The boundary's branch `HOLD`: `FR` keeps its value (42_synchronizer.md R175). -/
def State.holdFrame (s : State) : State := { s with lastb := .hold, sync := .hold }

/-- The pacing policy at a frame boundary (42_synchronizer.md R173 to R175). -/
def State.applyPolicy (s : State) : State :=
  match s.policy with
  | .throughput => s.signalReady
  | .tearfree =>
    match s.take .ack with
    | (true, s') => s'.signalReady
    | (false, s') => s'.holdFrame

/-- `frame_boundary()`: the cursor is reset, then the policy is applied, then the synchronizer goes back to `SCANNING`, all
inside the one `LINE` step (42_synchronizer.md R171, R172, R178). -/
def State.frameBoundary (s : State) : State :=
  { ({ s with sync := .frameBoundary }).cursorStart.applyPolicy with sync := .scanning }

end Sys2Proof.Machine
end

