-- ==== Sys2Proof/Machine/Scanout.lean ====
section
/-! DEFINITION. The Line Scanout Engine (41_scanout.md): the operation `LINE`, step by step as R150 numbers them. -/

namespace Sys2Proof.Machine

/-- Acceptance: a `LINE` has an effect only with `INITED = 1` and `EN = 1` (41_scanout.md R151). -/
def State.accepts (s : State) : Bool := s.inited && s.en

/-- Step 1, underrun recovery (41_scanout.md R152). -/
def State.recoverUnderrun (s : State) (ur : Bool) : State :=
  if ur then { s with curSrc := s.geom.startOffset + s.geom.increment, curCount := 1, urf := true } else s

/-- Step 2, the test: the front frame exists and the cursor lies in `[0, GEOM_VALID_SPAN)`, compared as signed numbers
(41_scanout.md R153). -/
def State.sourceValid (s : State) : Bool :=
  s.fbValid s.front && decide (0 ≤ s.curSrc.toInt) && decide (s.curSrc.toInt < s.geom.validSpan.toInt)

/-- The row lies inside the source frame and inside the line buffer: its first and last source index, between which all the
others lie, and its written range. True wherever `sourceValid` is, in every state a run reaches (40_geometry.md R140); where
it fails the line is blanked, since "any error state degrades to blanking output" (41_scanout.md R159; log 5). -/
def State.rowFits (s : State) : Bool :=
  decide (1 ≤ s.geom.lineWidth.toInt) &&
  decide (0 ≤ s.sourceIndex 0) && decide (s.sourceIndex 0 < s.framePixels) &&
  decide (0 ≤ s.sourceIndex (s.geom.lineWidth.toInt - 1)) &&
  decide (s.sourceIndex (s.geom.lineWidth.toInt - 1) < s.framePixels) &&
  decide (0 ≤ s.geom.dstStart.toInt) && decide (s.dstFirst + s.sourceCount * s.scaleFactor ≤ s.par.pw)

/-- Steps 2 to 4: copy the row with horizontal replication and flush it, or blank the whole line and flush it
(41_scanout.md R153 to R156). -/
def State.produceLine (s : State) (b : Bool) : State :=
  if s.sourceValid && s.rowFits then s.lineWrite b s.dstFirst (replicatePixels s.scaleFactor s.sourceRun)
  else s.blankLine b

/-- Step 5: advance the cursor (41_scanout.md R157). -/
def State.advanceCursor (s : State) : State :=
  { s with curSrc := s.curSrc + s.geom.increment, curCount := s.curCount + 1 }

/-- The end of a frame is reached: `CUR_LINE_COUNT >= GEOM_LINES_PER_FRAME` (41_scanout.md R158). -/
def State.frameDone (s : State) : Bool := decide (s.geom.linesPerFrame.toInt ≤ (s.curCount.toNat : Int))

/-- Step 6 (41_scanout.md R158). -/
def State.endOfFrame (s : State) : State := if s.frameDone then s.frameBoundary else s

/-- What an accepted `LINE` does: steps 1 to 6 in order, and `REARM` (41_scanout.md R150, R160). -/
def State.scanLine (s : State) (buf ur : Bool) : State :=
  { (((s.recoverUnderrun ur).produceLine buf).advanceCursor.endOfFrame) with rearm := false }

/-- `LINE buf, ur` (41_scanout.md R150). It has no path that waits, fails or reports (R159). -/
def execLine (buf ur : Bool) (s : State) : Host.Outcome State Fault Refusal :=
  if s.accepts then .next (s.scanLine buf ur) else .next s

end Sys2Proof.Machine
end

