-- ==== Sys2Proof/Machine/Dispatch.lean ====
section
/-! DEFINITION. The meaning of every instruction, one arm per constructor. A command's meaning is its step once the command
port has accepted it (43_handoff.md R186); the port's own test is in Machine/Ports.lean. -/

namespace Sys2Proof.Machine

def exec (i : Instr) (s : State) : Host.Outcome State Fault Refusal :=
  match i with
  | .init pol w h => Sys2Proof.Machine.execInit pol w h s
  | .recompute => Sys2Proof.Machine.execRecompute s
  | .setXform scale rot => Sys2Proof.Machine.execSetXform scale rot s
  | .enable => Sys2Proof.Machine.execEnable s
  | .disable => Sys2Proof.Machine.execDisable s
  | .acquire => Sys2Proof.Machine.execAcquire s
  | .publish f => Sys2Proof.Machine.execPublish f s
  | .waitVsync => Sys2Proof.Machine.execWaitVsync s
  | .pollVsync => Sys2Proof.Machine.execPollVsync s
  | .setBacklight pct => Sys2Proof.Machine.execSetBacklight pct s
  | .teardown => Sys2Proof.Machine.execTeardown s
  | .line buf ur => Sys2Proof.Machine.execLine buf ur s

end Sys2Proof.Machine
end

