-- ==== Sys2Proof/Machine/Ports.lean ====
section
/-! DEFINITION. The two ports, the environment and the scheduler: what one step of an agent does (20_memory.md R74,
30_encoding.md R101 to R108, 43_handoff.md R186, 70_reset_and_hazards.md R260). -/

namespace Sys2Proof.Machine

/-- A word the command port has accepted: the command it decodes to, or `ERR_UNSUPPORTED` (30_encoding.md R108,
44_lifecycle.md R221). -/
def issue (w : Word) (s : State) : Host.Outcome State Fault Refusal :=
  match decode .cmd w with
  | .ok i => exec i s
  | .error _ => complete s .errUnsupported false

/-- A write to `CMD` reaches the port. While a command is held the write is stalled; otherwise the port takes the oldest write
that is waiting, which is this one where none is (30_encoding.md R102, 43_handoff.md R186; log 7). -/
def cmdWrite (w : Word) (s : State) : Host.Outcome State Fault Refusal :=
  if s.pend = .none then
    match s.stalled with
    | [] => issue w s
    | w' :: ws => issue w' { s with stalled := ws ++ [w] }
  else .next { s with stalled := s.stalled ++ [w] }

/-- The host agent's turn: the commit step of the held command where `FR = 1`; with no command held, the oldest stalled write;
nothing where neither is enabled (43_handoff.md R186). -/
def hostTurn (s : State) : Host.Outcome State Fault Refusal :=
  if s.rstIn then .next s
  else if s.pend = .none then
    match s.stalled with
    | [] => .next s
    | w :: ws => issue w { s with stalled := ws }
  else if s.fr then .next s.commitHeld
  else .next s

/-- A word written to `EVT`: a `LINE`, or ignored (30_encoding.md R108, 44_lifecycle.md R222). -/
def evtWrite (w : Word) (s : State) : Host.Outcome State Fault Refusal :=
  match decode .evt w with
  | .ok i => exec i s
  | .error _ => .next s

/-- An access the register ports serve: 4 bytes wide, at a multiple of 4 (20_memory.md R68). -/
def wordAccess (off width : Nat) : Bool := width == 4 && off % 4 == 0

/-- `rst` asserted (70_reset_and_hazards.md R260): every register takes its reset value, a held command and every stalled
write are dropped, memory is not touched; the frames and the line buffers are unspecified again, a new draw. The agents' steps
still to come stay. -/
def State.assertReset (s : State) : State :=
  { State.resetWith s.par with
    mem := s.mem, lbEng := s.lbEng, rstIn := true, draw := s.draw + 1, schedule := s.schedule }

/-- Pixel `i` of frame `f` exists (20_memory.md R62). -/
def State.hasFramePixel (s : State) (f : Bool) (i : Nat) : Bool := s.fbValid f && decide (i < s.framePixels)

/-- Pixel `x` of a line buffer exists (20_memory.md R63). -/
def State.hasLinePixel (s : State) (x : Nat) : Bool := decide (x < s.par.pw)

/-- A pixel as the data of a bus read. -/
def busPixel (v : Pixel) : Word := v.zeroExtend 32

/-- One step of one agent. -/
def perform (e : AgentStep) (s : State) : Host.Outcome State Fault Refusal :=
  match e with
  | .hostWrite off width v =>
    if !s.rstIn && wordAccess off width && off == 0x0 then cmdWrite v s else .next s
  | .hostRead off width => .next { s with bus := if wordAccess off width then s.hostReg off else 0 }
  | .hostTurn => hostTurn s
  | .evtWrite off width v =>
    if !s.rstIn && wordAccess off width && off == 0x0 then evtWrite v s else .next s
  | .evtRead off width => .next { s with bus := if wordAccess off width then s.evtReg off else 0 }
  | .fbWrite f i v =>
    if s.hasFramePixel f i then .next { s with mem := s.mem.store (fbAddr s.par f i) (pixelBytes v) }
    else .fault (.noFramePixel f i)
  | .fbRead f i =>
    if s.hasFramePixel f i then .next { s with bus := busPixel (s.framePixel f i) }
    else .fault (.noFramePixel f i)
  | .lbWrite b x v =>
    if s.hasLinePixel x then
      .next { s with
        mem := s.mem.store (lbAddr s.par b x) (pixelBytes v)
        lbEng := s.lbEng.store (lbAddr s.par b x) (pixelBytes v) }
    else .fault (.noLinePixel b x)
  | .lbRead b x =>
    if s.hasLinePixel x then .next { s with bus := busPixel (s.devicePixel b x) }
    else .fault (.noLinePixel b x)
  | .alloc ok => .next { s with allocOk := ok }
  | .rst level => .next (if level then s.assertReset else { s with rstIn := false })

/-- The next step of the interleaving: the head of the schedule; where the schedule is empty, the host agent's turn, so that a
commit that stays enabled is taken (43_handoff.md R186; log 1). -/
def nextStep (s : State) : Host.Outcome State Fault Refusal :=
  match s.schedule with
  | [] => hostTurn s
  | e :: rest => perform e { s with schedule := rest }

/-- Place a word at the port that accepts it as the very next step: a `LINE` word on `EVT`, any other on `CMD`, which for that
must hold no command and no earlier write; `rst` is not asserted (log 14). -/
def State.placeWord (s : State) (w : Word) : State :=
  match decode .evt w with
  | .ok _ => { s with rstIn := false, schedule := .evtWrite 0 4 w :: s.schedule }
  | .error _ =>
    { s with rstIn := false, pend := .none, stalled := [], schedule := .hostWrite 0 4 w :: s.schedule }

end Sys2Proof.Machine
end

