-- ==== Sys2Proof/Machine/Step.lean ====
section
/-! DEFINITION. One step of the machine, and the placing of an instruction word where the next step finds it. -/

namespace Sys2Proof.Machine

/-- One indivisible step of one agent (00_scope.md R12, 20_memory.md R74). -/
def step (s : State) : Host.Outcome State Fault Refusal := nextStep s

/-- `s` with the word whose low `nbits` bits are those of `w` written to its port as the very next step (log 14). -/
def State.withFetchWord (s : State) (nbits w : Nat) : State := s.placeWord (BitVec.ofNat 32 (w % 2 ^ nbits))

end Sys2Proof.Machine
end

