-- ==== Sys2Proof/Safety.lean ====
section
/-! DEFINITION. What counts as a safe state of the block, and the words in which statements speak of runs: the invariants of
10_state.md R49, the agreement of the two views of the line buffers (20_memory.md R72), the black margins (41_scanout.md R164),
and the lists of steps of the display hardware. -/

namespace Sys2Proof.Machine

/-- The block is idle and everything a session writes is at 0 (10_state.md R49 item 2; the cursor is `CUR_SRC_OFFSET`,
`CUR_LINE_COUNT` and `URF`, R20). -/
structure State.Idle (s : State) : Prop where
  en : s.en = false
  geomValid : s.geomValid = false
  fr : s.fr = false
  ack : s.ack = false
  front : s.front = false
  fbValid0 : s.fbValid0 = false
  fbValid1 : s.fbValid1 = false
  lw : s.lw = 0
  lh : s.lh = 0
  pend : s.pend = .none
  lastb : s.lastb = .none
  geom : s.geom = Geometry.zero
  curSrc : s.curSrc = 0
  curCount : s.curCount = 0
  urf : s.urf = false

/-- The cursor is a place of the present frame: line `CUR_LINE_COUNT`, below `GEOM_LINES_PER_FRAME`, at offset
`GEOM_START_OFFSET + CUR_LINE_COUNT * GEOM_INCREMENT` (10_state.md R49 item 5). -/
def State.CursorInFrame (s : State) : Prop :=
  (s.curCount.toNat : Int) < s.geom.linesPerFrame.toInt ∧
  s.curSrc.toInt = s.geom.startOffset.toInt + s.curCount.toNat * s.geom.increment.toInt

/-- The invariants of 10_state.md R49, items 1 to 7, on a platform with legal parameters (`Params.Valid`), and `EVT_RESP.REARM = 0`
(R47). -/
structure State.Inv (s : State) : Prop where
  params : s.par.Valid
  enabled : s.en = true → s.inited = true ∧ s.geomValid = true
  idle : s.inited = false → s.Idle
  session : s.inited = true → s.fbValid0 = true ∧ s.fbValid1 = true ∧ 1 ≤ s.lw.toNat ∧ 1 ≤ s.lh.toNat
  geometry : s.geomValid = true → s.scale ≠ 0 ∧ ∃ g, s.geomOf s.lw s.lh = some g ∧ s.geom = g.toRegs
  cursor : s.geomValid = true → s.CursorInFrame
  held : s.pend ≠ .none → s.inited = true
  heldPublish : s.pend = .publish → s.policy = .tearfree
  scanning : s.sync = .scanning
  rearm : s.rearm = false

/-- The platform keeps 20_memory.md R70 for the frames of the size in use, `LW * LH` pixels each: the four pixel
regions overlap neither one another nor the register blocks. It is a premise about the platform, which the block does not check (log 2). -/
def State.WindowsApart (s : State) : Prop := s.par.WindowsApart s.framePixels

/-- Both memories are in their canonical form. -/
def State.Canonical (s : State) : Prop := s.mem.wf ∧ s.lbEng.wf

/-- The engine's and the device's view agree on every byte of both line buffers: no pixel is written and not flushed
(20_memory.md R72, R73). -/
def State.ViewsAgree (s : State) : Prop :=
  ∀ b a, lbAddr s.par b 0 ≤ a → a < lbAddr s.par b s.par.pw → s.mem.load a = s.lbEng.load a

/-- With a valid geometry, the pixels of both line buffers outside the range a copied row is written to hold `0x0000`
(41_scanout.md R164). -/
def State.MarginsBlack (s : State) : Prop :=
  s.geomValid = true → ∀ b x, x < s.par.pw → (x < s.dstFirst ∨ s.dstFirst + s.sourceCount * s.scaleFactor ≤ x) →
    s.enginePixel? b x = some 0x0000

/-- The step is a producer's write into a line buffer, which software must never make (70_reset_and_hazards.md R267). -/
def AgentStep.isLineBufferWrite : AgentStep → Bool
  | .lbWrite _ _ _ => true
  | _ => false

/-- The step is an access of the environment to pixel memory (60_exceptions.md R245). -/
def AgentStep.isPixelAccess : AgentStep → Bool
  | .fbWrite _ _ _ => true
  | .fbRead _ _ => true
  | .lbWrite _ _ _ => true
  | .lbRead _ _ => true
  | _ => false

/-- A write of a command's word to `CMD`. -/
def writeCmd (i : Instr) : AgentStep := .hostWrite 0x0 4 i.encode

/-- A line event: a write of `LINE buf, ur` to `EVT` (30_encoding.md R101). -/
def lineEvent (buf ur : Bool) : AgentStep := .evtWrite 0x0 4 (Instr.line buf ur).encode

/-- Line events without underrun, one for each buffer named (30_encoding.md R107 `LINES`). -/
def lineEvents (bufs : List Bool) : List AgentStep := bufs.map (fun b => lineEvent b false)

/-- Line events that all carry the underrun flag. -/
def underrunEvents (bufs : List Bool) : List AgentStep := bufs.map (fun b => lineEvent b true)

/-- Any words written to `EVT`. -/
def eventWords (ws : List Word) : List AgentStep := ws.map (fun w => .evtWrite 0x0 4 w)

/-- `GEOM_LINES_PER_FRAME` as a count. -/
def State.frameLength (s : State) : Nat := s.geom.linesPerFrame.toInt.toNat

/-- The code a command gives when it completes, by the table of 60_exceptions.md R232 and the order of R234. -/
def resultCodeOf (i : Instr) (s : State) : ResultCode :=
  match i with
  | .init _ w h =>
    if s.inited then .errState
    else if geomError w h s.par.pw s.par.ph s.scale.toNat then .errConfig
    else if s.allocOk then .ok else .errNomem
  | .recompute =>
    if s.inited = false ∨ s.en = true then .errState
    else if geomError s.lw.toNat s.lh.toNat s.par.pw s.par.ph s.scale.toNat then .errConfig else .ok
  | .setXform _ _ => if s.en then .errState else .ok
  | .enable => if s.inited = false ∨ s.geomValid = false then .errState else .ok
  | .disable => .ok
  | .acquire => if s.inited then .ok else .errState
  | .publish f => if s.inited = false ∨ f = s.front then .errState else .ok
  | .waitVsync => if s.inited then .ok else .errState
  | .pollVsync => if s.inited then .ok else .errState
  | .setBacklight _ => .ok
  | .teardown => if s.inited = false ∨ s.en = true then .errState else .ok
  | .line _ _ => s.result.code

/-- The issue step leaves the command held (43_handoff.md R186). -/
def isHeldBy (i : Instr) (s : State) : Prop :=
  s.inited = true ∧ s.fr = false ∧
  (i = .waitVsync ∨ ∃ f, i = .publish f ∧ f ≠ s.front ∧ s.policy = .tearfree)

end Sys2Proof.Machine
end

