-- ==== Sys2Proof/Certificates/Slice0/Obligations.lean ====
section
/-! DEFINITION. The statements for the provers: what the rules of spec/ say the block does, stated of `decode`, `exec`,
`step` and runs of `core`. A statement about a next state written `{ s with … }` says that every field not named is
unchanged. -/

open Sys2Proof
open Sys2Proof.Machine

/-! ### Encoding (30_encoding.md) -/

/-- 30_encoding.md R98, R106, R108: the word of a well-formed instruction decodes, on its port, to that instruction, with
every operand at every value. -/
def Obligations.DecodeOfEncodedInstruction : Prop :=
  ∀ i : Instr, i.wf = true → decode i.port i.encode = .ok i

/-- 30_encoding.md R91, R106, R108: a word that decodes on a port is the word of the instruction it decodes to, which is
well-formed and of that port: no bit of a word is dropped, and no two words mean the same. -/
def Obligations.EncodeOfDecodedWord : Prop :=
  ∀ p w i, decode p w = .ok i → i.wf = true ∧ i.port = p ∧ i.encode = w

/-- 30_encoding.md R99: a word decodes on a port exactly when it selects a row of the opcode map with that port, and to an
operation of that row; no word selects two rows. -/
def Obligations.DecodeFollowsOpcodeMap : Prop :=
  (∀ p w i, decode p w = .ok i → ∃ r ∈ opcodeMap, r.mnemonic = i.mnemonic ∧ r.port = p ∧ r.selects w = true) ∧
  (∀ r ∈ opcodeMap, ∀ w, r.selects w = true → ∃ i, decode r.port w = .ok i ∧ i.mnemonic = r.mnemonic) ∧
  opcodeMap.Pairwise (fun r q => ∀ w, ¬ (r.selects w = true ∧ q.selects w = true))

/-- 95_test_vectors.md section 2: words written out bit by bit, and what they decode to. -/
def Obligations.WrittenOutWordsDecode : Prop :=
  decode .cmd 0b00000011110000000010100000010001#32 = .ok (.init .tearfree 320 240) ∧
  decode .cmd 0b00000000000000000000000000110011#32 = .ok (.setXform 3 false) ∧
  decode .cmd 0b00000000000000000000000000000010#32 = .ok .recompute ∧
  decode .cmd 0b00000000000000000000000000010111#32 = .ok (.publish true) ∧
  decode .cmd 0b00000000000000000000001100101010#32 = .ok (.setBacklight 50) ∧
  decode .evt 0b00000000000000000000000000101111#32 = .ok (.line false true) ∧
  decode .cmd 0b10000011110000000010100000010001#32 = .error .reservedBit ∧
  decode .cmd 0b00000000000000000000000000001111#32 = .error .wrongPort

/-! ### The ports and the step (30_encoding.md sections 6 and 8, 43_handoff.md R186) -/

/-- 30_encoding.md R102, R108: a step that writes a command's word to a free command port, or a `LINE` word to `EVT`, is that
instruction run on the state in which the step has left the schedule. -/
def Obligations.StepRunsDecodedInstruction : Prop :=
  (∀ (s : State) w i rest, s.schedule = .hostWrite 0x0 4 w :: rest → s.rstIn = false → s.pend = .none → s.stalled = [] →
    decode .cmd w = .ok i → step s = exec i { s with schedule := rest }) ∧
  (∀ (s : State) w i rest, s.schedule = .evtWrite 0x0 4 w :: rest → s.rstIn = false → decode .evt w = .ok i →
    step s = exec i { s with schedule := rest })

/-- 44_lifecycle.md R221: a word that selects no CMD row of the opcode map is refused in every state of a free port:
`RESULT` is `ERR_UNSUPPORTED` and nothing else changes. -/
def Obligations.ReservedCommandWordIsRefused : Prop :=
  ∀ (s : State) w rest, s.schedule = .hostWrite 0x0 4 w :: rest → s.rstIn = false → s.pend = .none → s.stalled = [] →
    (∀ r ∈ opcodeMap, r.port = .cmd → r.selects w = false) →
    step s = .next { s with schedule := rest, result := ⟨.errUnsupported, false⟩ }

/-- 44_lifecycle.md R222: a word on `EVT` that is not a valid `LINE` word changes nothing, and `EVT_RESP` still reads 0. -/
def Obligations.InvalidEventWordIsIgnored : Prop :=
  ∀ (s : State) w rest, s.schedule = .evtWrite 0x0 4 w :: rest → w &&& 0xFFFFFFCF#32 ≠ 0x0000000F#32 →
    step s = .next { s with schedule := rest } ∧
    (s.evtReg 0x4 = 0 → ({ s with schedule := rest } : State).evtReg 0x4 = 0)

/-- 43_handoff.md R186: while a command is held, a write to `CMD` is not performed; it is stalled behind those already
waiting (the list of waiting writes is the model's, log 7). -/
def Obligations.WriteToBusyPortIsStalled : Prop :=
  ∀ (s : State) w rest, s.schedule = .hostWrite 0x0 4 w :: rest → s.rstIn = false → s.pend ≠ .none →
    step s = .next { s with schedule := rest, stalled := s.stalled ++ [w] }

/-- 43_handoff.md R186, R189, R194: the commit step of a held command, enabled exactly with `FR = 1`. -/
def Obligations.CommitOfHeldCommand : Prop :=
  ∀ (s : State) rest, s.schedule = .hostTurn :: rest → s.rstIn = false →
    (s.pend = .publish → s.fr = true →
      step s = .next { s with schedule := rest, front := !s.front, fr := false, ack := true, pend := .none, result := ⟨.ok, true⟩ }) ∧
    (s.pend = .waitVsync → s.fr = true →
      step s = .next { s with schedule := rest, fr := false, pend := .none, result := ⟨.ok, true⟩ }) ∧
    (s.pend ≠ .none → s.fr = false → step s = .next { s with schedule := rest })

/-- 43_handoff.md R186, 44_lifecycle.md R221: a write stalled behind a held command takes effect, as its issue step, after the
commit: the command it decodes to, or `ERR_UNSUPPORTED` where it selects no CMD row. That stalled writes wait in a list and take
effect oldest first, in the host's turns, and that a write which reaches the free port while an older one still waits lets the
older one in and waits itself, is the model's choice (log 7; R186 says only that such a write is stalled, R102 that commands run
in the order the port receives them). -/
def Obligations.StalledWriteIsIssuedAfterCommit : Prop :=
  (∀ (s : State) w ws rest, s.schedule = .hostTurn :: .hostTurn :: rest → s.rstIn = false → s.pend ≠ .none → s.fr = true →
    s.stalled = w :: ws →
    ∃ u : State, Host.Core.run core 1 s = .next u ∧ u.pend = .none ∧ u.fr = false ∧ u.result = ⟨.ok, true⟩ ∧
      u.stalled = w :: ws ∧
      (∀ i, decode .cmd w = .ok i → Host.Core.run core 2 s = exec i { u with schedule := rest, stalled := ws }) ∧
      ((∀ r ∈ opcodeMap, r.port = .cmd → r.selects w = false) →
        Host.Core.run core 2 s =
          .next { u with schedule := rest, stalled := ws, result := ⟨.errUnsupported, false⟩ })) ∧
  (∀ (s : State) w ws rest, s.schedule = .hostTurn :: rest → s.rstIn = false → s.pend = .none → s.stalled = w :: ws →
    (∀ i, decode .cmd w = .ok i → step s = exec i { s with schedule := rest, stalled := ws }) ∧
    ((∀ r ∈ opcodeMap, r.port = .cmd → r.selects w = false) →
      step s = .next { s with schedule := rest, stalled := ws, result := ⟨.errUnsupported, false⟩ })) ∧
  (∀ (s : State) v w ws rest, s.schedule = .hostWrite 0x0 4 v :: rest → s.rstIn = false → s.pend = .none →
    s.stalled = w :: ws →
    (∀ i, decode .cmd w = .ok i → step s = exec i { s with schedule := rest, stalled := ws ++ [v] }) ∧
    ((∀ r ∈ opcodeMap, r.port = .cmd → r.selects w = false) →
      step s = .next { s with schedule := rest, stalled := ws ++ [v], result := ⟨.errUnsupported, false⟩ }))

/-- 20_memory.md R68, R69, 30_encoding.md R101, R103: a read has no side effect but the data it returns (the data's place,
`bus`, is the model's, log 12): the register for a 4-byte access at a multiple of 4; `CMD`, `EVT` and the offsets past the map
read 0. A 4-byte write to an offset other than 0 is ignored on both ports. That an access which is not 4 bytes wide at a
multiple of 4 gives 0, or writes nothing, is the model's choice (log 9, DEDUCED: 93_implementation_defined.md U9 finds a bus
error equally acceptable). -/
def Obligations.PortAccesses : Prop :=
  (∀ (s : State) off width rest, s.schedule = .hostRead off width :: rest →
    step s = .next { s with schedule := rest, bus := if width = 4 ∧ off % 4 = 0 then s.hostReg off else 0 }) ∧
  (∀ (s : State) off width rest, s.schedule = .evtRead off width :: rest →
    step s = .next { s with schedule := rest, bus := if width = 4 ∧ off % 4 = 0 then s.evtReg off else 0 }) ∧
  (∀ (s : State) off, off = 0x0 ∨ 0x4C ≤ off → s.hostReg off = 0) ∧
  (∀ (s : State) off, off ≠ 0x4 → s.evtReg off = 0) ∧
  (∀ (s : State) off width v rest, s.schedule = .hostWrite off width v :: rest ∨ s.schedule = .evtWrite off width v :: rest →
    ¬ (off = 0x0 ∧ width = 4) → step s = .next { s with schedule := rest })

/-- 10_state.md R33, 30_encoding.md R104: in every state, the bits of `STATUS` as a read of offset 0x08 returns them, and the
output wires `frame_ready`, `buf_ack`, `front`, `busy` (`PEND` is not 0) and `bl_pct`. -/
def Obligations.StatusRegisterBits : Prop :=
  ∀ s : State,
    let w := s.hostReg 0x08
    (w.getLsbD 0 = s.inited ∧ w.getLsbD 1 = s.en ∧ w.getLsbD 2 = s.geomValid ∧ w.getLsbD 3 = s.front ∧
      w.getLsbD 4 = s.fr ∧ w.getLsbD 5 = s.ack ∧ w.getLsbD 6 = s.urf ∧
      w.extractLsb' 7 2 = (match s.sync with | .scanning => 0#2 | .frameBoundary => 1#2 | .signalReady => 2#2 | .hold => 3#2) ∧
      w.extractLsb' 9 2 = (match s.lastb with | .none => 0#2 | .signalReady => 2#2 | .hold => 3#2) ∧
      w.extractLsb' 11 2 = (match s.pend with | .none => 0#2 | .waitVsync => 1#2 | .publish => 2#2) ∧
      w.getLsbD 13 = s.fbValid0 ∧ w.getLsbD 14 = s.fbValid1 ∧ w.extractLsb' 15 17 = 0#17) ∧
    (s.wires.frameReady = s.fr ∧ s.wires.bufAck = s.ack ∧ s.wires.front = s.front ∧
      (s.wires.busy = true ↔ s.pend ≠ .none) ∧ s.wires.blPct = s.backlight)

/-- 10_state.md R22 to R24, R26, R45 to R47, 30_encoding.md R101, R103: what each offset of the two register maps reads as (but
`STATUS`, which `StatusRegisterBits` gives): the fields of `CFG_DIM`, `PANEL`, `XFORM`, `RESULT`, `BACKLIGHT` and `EVT_RESP`,
every other bit of which reads 0, the ten `GEOM_*` registers, `CUR_SRC_OFFSET` and `CUR_LINE_COUNT`. -/
def Obligations.ConfigurationRegisterFields : Prop :=
  ∀ s : State, s.par.Valid →
    ((s.hostReg 0x0C).extractLsb' 0 13 = s.lw ∧ (s.hostReg 0x0C).extractLsb' 13 3 = 0#3 ∧
      (s.hostReg 0x0C).extractLsb' 16 13 = s.lh ∧ (s.hostReg 0x0C).extractLsb' 29 3 = 0#3) ∧
    (((s.hostReg 0x10).extractLsb' 0 13).toNat = s.par.pw ∧ (s.hostReg 0x10).extractLsb' 13 3 = 0#3 ∧
      ((s.hostReg 0x10).extractLsb' 16 13).toNat = s.par.ph ∧ (s.hostReg 0x10).extractLsb' 29 3 = 0#3) ∧
    ((s.hostReg 0x14).extractLsb' 0 2 = s.scale ∧ (s.hostReg 0x14).getLsbD 2 = s.rot ∧
      (s.hostReg 0x14).getLsbD 3 = decide (s.policy = .tearfree) ∧ (s.hostReg 0x14).extractLsb' 4 28 = 0#28) ∧
    ((s.hostReg 0x04).extractLsb' 0 4 =
        (match s.result.code with
          | .ok => 0#4 | .errConfig => 1#4 | .errNomem => 2#4 | .errUnsupported => 3#4 | .errState => 4#4) ∧
      (s.hostReg 0x04).getLsbD 4 = s.result.val ∧ (s.hostReg 0x04).extractLsb' 5 27 = 0#27) ∧
    ((s.hostReg 0x48).extractLsb' 0 7 = s.backlight ∧ (s.hostReg 0x48).extractLsb' 7 25 = 0#25) ∧
    (s.hostReg 0x18 = s.geom.offsetX ∧ s.hostReg 0x1C = s.geom.offsetY ∧ s.hostReg 0x20 = s.geom.startOffset ∧
      s.hostReg 0x24 = s.geom.increment ∧ s.hostReg 0x28 = s.geom.validSpan ∧ s.hostReg 0x2C = s.geom.lineWidth ∧
      s.hostReg 0x30 = s.geom.lineBase ∧ s.hostReg 0x34 = s.geom.stride ∧ s.hostReg 0x38 = s.geom.dstStart ∧
      s.hostReg 0x3C = s.geom.linesPerFrame) ∧
    (s.hostReg 0x40 = s.curSrc ∧ s.hostReg 0x44 = s.curCount) ∧
    ((s.evtReg 0x4).getLsbD 0 = s.rearm ∧ (s.evtReg 0x4).extractLsb' 1 31 = 0#31)

/-! ### Reset (10_state.md R48, 70_reset_and_hazards.md R260) -/

/-- 10_state.md R48: after reset every register reads 0, but `XFORM`, which reads 1 (`SCALE = 1`), and the hardwired
`PANEL`; the wires are low; the frames do not exist. -/
def Obligations.ResetRegisterValues : Prop :=
  ∀ p : Params,
    (∀ off, (State.resetWith p).hostReg off =
      if off = 0x10 then (State.resetWith p).panelWord else if off = 0x14 then 1 else 0) ∧
    (∀ off, (State.resetWith p).evtReg off = 0) ∧
    (State.resetWith p).wires = ⟨false, false, false, false, 0⟩ ∧
    (∀ f i, (State.resetWith p).hasFramePixel f i = false) ∧ (State.resetWith p).par = p

/-- 70_reset_and_hazards.md R260: `rst` asserted in any state gives every register its reset value, drops a held command and
the stalled writes, and touches no memory; while it is asserted no operation is accepted. -/
def Obligations.ResetFromAnyState : Prop :=
  (∀ (s : State) rest, s.schedule = .rst true :: rest →
    ∃ t, step s = .next t ∧ (∀ off, t.hostReg off = (State.resetWith s.par).hostReg off) ∧
      (∀ off, t.evtReg off = 0) ∧ t.pend = .none ∧ t.stalled = [] ∧ t.fbValid0 = false ∧ t.fbValid1 = false ∧
      t.mem = s.mem ∧ t.lbEng = s.lbEng ∧ t.par = s.par ∧ t.rstIn = true ∧ t.schedule = rest) ∧
  (∀ (s : State) e rest, s.schedule = e :: rest → s.rstIn = true →
    (e = .hostTurn ∨ (∃ off width v, e = .hostWrite off width v) ∨ (∃ off width v, e = .evtWrite off width v)) →
    step s = .next { s with schedule := rest })

/-! ### The Geometry Calculator (40_geometry.md) -/

/-- 40_geometry.md R125: `geom` returns `error` exactly in the five cases, the last two of which never hold with a scale
of 1, 2 or 3 on a panel of at least 3 by 3. -/
def Obligations.GeomErrorsExactly : Prop :=
  ∀ w h pw ph s rot,
    (calcGeom w h pw ph s rot = none ↔ w = 0 ∨ h = 0 ∨ s = 0 ∨ pw / s = 0 ∨ ph / s = 0) ∧
    ((s = 1 ∨ s = 2 ∨ s = 3) → 3 ≤ pw → 3 ≤ ph → pw / s ≠ 0 ∧ ph / s ≠ 0)

/-- 40_geometry.md R127, 00_scope.md R10: the centring offset is half the margin, or minus half the overflow, each half
rounded toward zero. -/
def Obligations.CenterOffsetTruncatesTowardZero : Prop :=
  ∀ p along s : Nat, centerOffset p along s =
    if along * s ≤ p then (((p - along * s) / 2 : Nat) : Int) else -(((along * s - p) / 2 : Nat) : Int)

/-- 40_geometry.md R124, R126 to R137: the ten values of `geom`, with each skip as half the overflow in panel pixels divided by
the scale factor (subtraction of naturals: no overflow gives 0), a closed form inferred from R127 and R129. -/
def Obligations.GeometryValues : Prop :=
  ∀ w h pw ph s rot g, calcGeom w h pw ph s rot = some g →
    let alongLine := if rot then h else w
    let alongScan := if rot then w else h
    let skipLine := (alongLine * s - pw) / 2 / s
    let skipScan := (alongScan * s - ph) / 2 / s
    g.offsetX = centerOffset (if rot then ph else pw) w s ∧ g.offsetY = centerOffset (if rot then pw else ph) h s ∧
    g.linesPerFrame = ((ph / s : Nat) : Int) ∧ g.dstStart = (((pw - alongLine * s) / 2 : Nat) : Int) ∧
    g.lineWidth = ((if pw < alongLine * s then pw / s else alongLine : Nat) : Int) ∧
    g.startOffset = ((if rot then skipScan else skipScan * w + skipLine : Nat) : Int) ∧
    g.increment = ((if rot then 1 else w : Nat) : Int) ∧ g.validSpan = ((if rot then w else w * h : Nat) : Int) ∧
    g.lineBase = (if rot then ((h : Int) - 1 - skipLine) * w else 0) ∧ g.stride = (if rot then -(w : Int) else 1)

/-- 40_geometry.md R139: no value of `geom` leaves its 32-bit register, and neither does the largest value the cursor
reaches; with the bounds the rule states. -/
def Obligations.GeometryFitsItsRegisters : Prop :=
  ∀ w h pw ph s rot g, 1 ≤ w → w ≤ 8191 → 1 ≤ h → h ≤ 8191 → 1 ≤ pw → pw ≤ 8191 → 1 ≤ ph → ph ≤ 8191 → s ≤ 3 →
    calcGeom w h pw ph s rot = some g →
    g.toRegs.offsetX.toInt = g.offsetX ∧ g.toRegs.offsetY.toInt = g.offsetY ∧
    g.toRegs.startOffset.toInt = g.startOffset ∧ g.toRegs.increment.toInt = g.increment ∧
    g.toRegs.validSpan.toInt = g.validSpan ∧ g.toRegs.lineWidth.toInt = g.lineWidth ∧
    g.toRegs.lineBase.toInt = g.lineBase ∧ g.toRegs.stride.toInt = g.stride ∧
    g.toRegs.dstStart.toInt = g.dstStart ∧ g.toRegs.linesPerFrame.toInt = g.linesPerFrame ∧
    -12286 ≤ g.offsetX ∧ g.offsetX ≤ 4095 ∧ -12286 ≤ g.offsetY ∧ g.offsetY ≤ 4095 ∧
    0 ≤ g.startOffset ∧ g.startOffset < w * h ∧ 0 ≤ g.lineBase ∧ g.lineBase < w * h ∧ w * h ≤ 67092481 ∧
    g.startOffset + g.linesPerFrame * g.increment ≤ 134184961

/-- 40_geometry.md R140 items 1 and 2: a copied row fits the line buffer, and every source index of every destination line
that passes the span test lies in the frame. -/
def Obligations.GeometryStaysInBounds : Prop :=
  ∀ w h pw ph s rot g, calcGeom w h pw ph s rot = some g →
    1 ≤ g.lineWidth ∧ g.lineWidth ≤ (if rot then h else w) ∧
    0 ≤ g.dstStart ∧ g.dstStart + g.lineWidth * s ≤ pw ∧
    ∀ n j : Int, 0 ≤ n → 0 ≤ g.startOffset + n * g.increment → g.startOffset + n * g.increment < g.validSpan →
      0 ≤ j → j < g.lineWidth →
      0 ≤ g.lineBase + (g.startOffset + n * g.increment) + j * g.stride ∧
      g.lineBase + (g.startOffset + n * g.increment) + j * g.stride < w * h

/-- 40_geometry.md R140 items 3 and 4: content that overflows the scan axis leaves no destination line of the frame blank;
content that does not overflow it has room on the frame's lines, a line `n` below its extent shows source row `n` (rotated:
source column `n`), and every other line is blank. Pixel `j` of the line is pixel `skipLine + j` of that row, or of that column
counted from its last row, where `skipLine` is what is left out on the leading side. -/
def Obligations.WhichLinesAreBlank : Prop :=
  ∀ w h pw ph s rot g, calcGeom w h pw ph s rot = some g →
    let alongLine := if rot then h else w
    let alongScan := if rot then w else h
    let skipLine := (alongLine * s - pw) / 2 / s
    (alongScan * s > ph → ∀ n : Nat, (n : Int) < g.linesPerFrame →
      0 ≤ g.startOffset + n * g.increment ∧ g.startOffset + n * g.increment < g.validSpan) ∧
    (alongScan * s ≤ ph →
      (∀ n : Nat, (n : Int) < g.linesPerFrame → 0 ≤ g.startOffset + n * g.increment ∧
        (g.startOffset + n * g.increment < g.validSpan ↔ n < alongScan)) ∧
      (alongScan : Int) ≤ g.linesPerFrame ∧
      ∀ n j : Nat, n < alongScan → (j : Int) < g.lineWidth →
        skipLine + j < alongLine ∧
        g.lineBase + (g.startOffset + n * g.increment) + j * g.stride =
          if rot then ((h : Int) - 1 - (skipLine + j : Nat)) * w + n else (n : Int) * w + (skipLine + j : Nat))

/-- 40_geometry.md R122: `SET_XFORM` stores the scale factor and the rotation flag and marks the geometry stale; with the
display enabled it is refused. -/
def Obligations.SetXformStoresAndMarksStale : Prop :=
  ∀ (s : State) scale rot, (Instr.setXform scale rot).wf = true →
    (s.en = false → ∃ t, exec (.setXform scale rot) s = .next t ∧ t.scale.toNat = scale ∧
      t = { s with scale := t.scale, rot := rot, geomValid := false, result := ⟨.ok, false⟩ }) ∧
    (s.en = true → exec (.setXform scale rot) s = .next { s with result := ⟨.errState, false⟩ })

/-- 40_geometry.md R123, 20_memory.md R66: a successful `RECOMPUTE` loads the ten registers, marks them valid, starts the
cursor, zero-fills both line buffers in both views, and changes no other register and no other byte. -/
def Obligations.RecomputeLoadsGeometry : Prop :=
  ∀ (s : State) g, s.inited = true → s.en = false →
    calcGeom s.lw.toNat s.lh.toNat s.par.pw s.par.ph s.scale.toNat s.rot = some g →
    ∃ t, exec .recompute s = .next t ∧
      t = { s with
        geom := g.toRegs, geomValid := true, curSrc := g.toRegs.startOffset, curCount := 0, urf := false,
        result := ⟨.ok, false⟩, mem := t.mem, lbEng := t.lbEng } ∧
      (∀ b x, x < s.par.pw → t.enginePixel? b x = some 0x0000 ∧ t.devicePixel b x = 0x0000) ∧
      (∀ a, (∀ b, a < lbAddr s.par b 0 ∨ lbAddr s.par b s.par.pw ≤ a) →
        t.mem.load a = s.mem.load a ∧ t.lbEng.load a = s.lbEng.load a)

/-- 40_geometry.md R123: `RECOMPUTE` without a session or with the display enabled changes only `RESULT`; on a configuration
error it marks the geometry stale and changes nothing else. -/
def Obligations.RecomputeFailures : Prop :=
  ∀ (s : State),
    (s.inited = false ∨ s.en = true → exec .recompute s = .next { s with result := ⟨.errState, false⟩ }) ∧
    (s.inited = true → s.en = false →
      calcGeom s.lw.toNat s.lh.toNat s.par.pw s.par.ph s.scale.toNat s.rot = none →
      exec .recompute s = .next { s with geomValid := false, result := ⟨.errConfig, false⟩ })

/-- 40_geometry.md R138: running `RECOMPUTE` twice gives the registers of running it once. -/
def Obligations.RecomputeIsIdempotent : Prop :=
  ∀ (s : State) (t : State), exec .recompute s = .next t → t.result.code = .ok →
    ∃ u, exec .recompute t = .next u ∧ u.result = t.result ∧ u.geom = t.geom ∧ u.geomValid = t.geomValid ∧
      u.curSrc = t.curSrc ∧ u.curCount = t.curCount ∧ u.urf = t.urf

/-! ### The Line Scanout Engine (41_scanout.md) -/

/-- 41_scanout.md R151: without `INITED` and `EN` a `LINE` changes no state, writes no pixel and flushes nothing. -/
def Obligations.LineIgnoredUnlessArmed : Prop :=
  ∀ (s : State) buf ur, ¬ (s.inited = true ∧ s.en = true) → exec (.line buf ur) s = .next s

/-- 41_scanout.md R152, R157, R158, 10_state.md R36: every accepted `LINE` completes and moves the cursor on by one line,
from the recovery values where the underrun flag is set; at the end of the frame the cursor starts again. -/
def Obligations.LineAdvancesCursor : Prop :=
  ∀ (s : State) buf ur, s.inited = true → s.en = true →
    ∃ t, exec (.line buf ur) s = .next t ∧ t.rearm = false ∧
      let src := if ur then s.geom.startOffset + s.geom.increment else s.curSrc
      let count := if ur then 1 else s.curCount
      if s.geom.linesPerFrame.toInt ≤ ((count + 1).toNat : Int) then
        t.curSrc = s.geom.startOffset ∧ t.curCount = 0 ∧ t.urf = false
      else t.curSrc = src + s.geom.increment ∧ t.curCount = count + 1 ∧ t.urf = (ur || s.urf)

/-- 42_synchronizer.md R171 to R175, R178: the pacing policy at a frame boundary; with no boundary the signals keep their
values. After the step the synchronizer is in the state it was in before, which is `SCANNING` (10_state.md R41). -/
def Obligations.FrameBoundaryAppliesPolicy : Prop :=
  ∀ (s : State) buf ur (t : State), s.inited = true → s.en = true → s.sync = .scanning → exec (.line buf ur) s = .next t →
    let count := if ur then 1 else s.curCount
    t.sync = .scanning ∧
    if s.geom.linesPerFrame.toInt ≤ ((count + 1).toNat : Int) then
      match s.policy, s.ack with
      | .throughput, a => t.fr = true ∧ t.ack = a ∧ t.lastb = .signalReady
      | .tearfree, true => t.fr = true ∧ t.ack = false ∧ t.lastb = .signalReady
      | .tearfree, false => t.fr = s.fr ∧ t.ack = false ∧ t.lastb = .hold
    else t.fr = s.fr ∧ t.ack = s.ack ∧ t.lastb = s.lastb

/-- 41_scanout.md R154 to R156, R159: a `LINE` writes only the cursor, `URF`, the two signals, `SYNC`, `LASTB`, `REARM` and
the line buffer its operand names; every byte outside the written range, in both views, is unchanged: the range of the copied
row, or the whole line where it is blanked. -/
def Obligations.LineFrame : Prop :=
  ∀ (s : State) buf ur (t : State), s.inited = true → s.en = true → exec (.line buf ur) s = .next t →
    t = { s with
      curSrc := t.curSrc, curCount := t.curCount, urf := t.urf, fr := t.fr, ack := t.ack, sync := t.sync,
      lastb := t.lastb, rearm := t.rearm, mem := t.mem, lbEng := t.lbEng } ∧
    let r := s.recoverUnderrun ur
    let copied := r.sourceValid = true ∧ r.rowFits = true
    let x0 := if copied then s.dstFirst else 0
    let x1 := if copied then s.dstFirst + s.sourceCount * s.scaleFactor else s.par.pw
    ∀ a, a < lbAddr s.par buf x0 ∨ lbAddr s.par buf x1 ≤ a →
      t.mem.load a = s.mem.load a ∧ t.lbEng.load a = s.lbEng.load a

/-- 41_scanout.md R152 to R154, R156, R161, R163: a `LINE` whose cursor passes the span test copies the row of `FB[FRONT]`,
each source pixel `S` times, into both views of the line buffer. -/
def Obligations.LineCopiesRow : Prop :=
  ∀ (s : State) buf ur, s.inited = true → s.en = true →
    (s.recoverUnderrun ur).sourceValid = true → (s.recoverUnderrun ur).rowFits = true →
    ∃ t, exec (.line buf ur) s = .next t ∧
      ∀ j r, j < s.sourceCount → r < s.scaleFactor →
        let src := if ur then s.geom.startOffset + s.geom.increment else s.curSrc
        let p := s.framePixel s.front (s.geom.lineBase.toInt + src.toInt + (j : Int) * s.geom.stride.toInt).toNat
        let x := s.dstFirst + j * s.scaleFactor + r
        t.enginePixel? buf x = some p ∧ t.devicePixel buf x = p

/-- 41_scanout.md R152, R153, R155, R156: a `LINE` whose cursor fails the test blanks the whole line in both views. -/
def Obligations.LineBlanksLine : Prop :=
  ∀ (s : State) buf ur, s.inited = true → s.en = true →
    (∀ src, src = (if ur then s.geom.startOffset + s.geom.increment else s.curSrc) →
      ¬ (s.fbValid s.front = true ∧ 0 ≤ src.toInt ∧ src.toInt < s.geom.validSpan.toInt)) →
    ∃ t, exec (.line buf ur) s = .next t ∧
      ∀ x, x < s.par.pw → t.enginePixel? buf x = some 0x0000 ∧ t.devicePixel buf x = 0x0000

/-- 40_geometry.md R140, 41_scanout.md R154, 70_reset_and_hazards.md R276: in every state that meets the invariants, a line
that passes the span test reads no pixel outside the frame and writes none outside the line buffer, with and without
underrun; so the model's blanking of a row that does not fit (log 5) never happens there. -/
def Obligations.AcceptedRowAlwaysFits : Prop :=
  ∀ (s : State) ur, s.Inv → s.en = true → (s.recoverUnderrun ur).sourceValid = true → (s.recoverUnderrun ur).rowFits = true

/-- 20_memory.md R64, 43_handoff.md R188: on a platform that keeps R70, the engine never reads the back frame: two states that
differ only in bytes of the back frame's window (`LW * LH` pixels) give, after a `LINE`, states that differ only there, with the
same line buffers in the engine's view. -/
def Obligations.LineNeverReadsBackFrame : Prop :=
  ∀ (s : State) m buf ur, s.Inv → s.WindowsApart → s.en = true →
    (∀ a, (a < fbAddr s.par (!s.front) 0 ∨ fbAddr s.par (!s.front) s.framePixels ≤ a) → m.load a = s.mem.load a) →
    ∃ t m', exec (.line buf ur) s = .next t ∧ exec (.line buf ur) { s with mem := m } = .next { t with mem := m' } ∧
      ∀ a, (a < fbAddr s.par (!s.front) 0 ∨ fbAddr s.par (!s.front) s.framePixels ≤ a) → m'.load a = t.mem.load a

/-- 10_state.md R26, 41_scanout.md R157, R158, R162: from the start of a frame, `k` line events without underrun, fewer than
`GEOM_LINES_PER_FRAME`, put the cursor on line `k` and give no signal; that many events end the frame. -/
def Obligations.FrameIsItsCountOfLineEvents : Prop :=
  ∀ (s : State) bufs rest, s.Inv → s.en = true → s.rstIn = false → s.curCount = 0 → s.schedule = lineEvents bufs ++ rest →
    (bufs.length < s.frameLength →
      ∃ t : State, Host.Core.run core bufs.length s = .next t ∧ t.curCount.toNat = bufs.length ∧
        t.curSrc.toInt = s.geom.startOffset.toInt + bufs.length * s.geom.increment.toInt ∧
        t.fr = s.fr ∧ t.ack = s.ack ∧ t.lastb = s.lastb ∧ t.schedule = rest) ∧
    (bufs.length = s.frameLength →
      ∃ t : State, Host.Core.run core bufs.length s = .next t ∧ t.curCount = 0 ∧ t.curSrc = s.geom.startOffset ∧
        t.urf = false ∧ t.lastb ≠ .none ∧ (s.policy = .throughput ∨ s.ack = true → t.fr = true) ∧ t.schedule = rest)

/-- 42_synchronizer.md R179, 41_scanout.md R152: wherever in a frame of at least two lines an underrun event falls, the frame
ends with the `GEOM_LINES_PER_FRAME - 1`-th event counted from it, the underrun event being the first, and not before; and
the flag `URF` ends with it. -/
def Obligations.UnderrunRestartsFrameAtLineOne : Prop :=
  ∀ (s : State) b bufs rest, s.Inv → s.en = true → s.rstIn = false → 2 ≤ s.frameLength →
    s.schedule = lineEvent b true :: lineEvents bufs ++ rest →
    (bufs.length + 2 < s.frameLength →
      ∃ t : State, Host.Core.run core (bufs.length + 1) s = .next t ∧ t.curCount.toNat = bufs.length + 2 ∧ t.urf = true ∧
        t.fr = s.fr ∧ t.ack = s.ack ∧ t.lastb = s.lastb) ∧
    (bufs.length + 2 = s.frameLength →
      ∃ t : State, Host.Core.run core (bufs.length + 1) s = .next t ∧ t.curCount = 0 ∧ t.curSrc = s.geom.startOffset ∧
        t.urf = false ∧ t.lastb ≠ .none)

/-- 70_reset_and_hazards.md R272: a stream of events that all carry the underrun flag never reaches a frame boundary when
`GEOM_LINES_PER_FRAME > 2`. -/
def Obligations.EndlessUnderrunNeverEndsAFrame : Prop :=
  ∀ (s : State) b bufs rest, s.Inv → s.en = true → s.rstIn = false → 2 < s.frameLength →
    s.schedule = underrunEvents (b :: bufs) ++ rest →
    ∃ t : State, Host.Core.run core (bufs.length + 1) s = .next t ∧ t.curCount = 2 ∧ t.urf = true ∧
      t.fr = s.fr ∧ t.ack = s.ack ∧ t.lastb = s.lastb

/-- 42_synchronizer.md R175, R176: under `TEARFREE`, once the acknowledgement is consumed, no step of any agent gives `FR` or
`ACK`, as long as it stays in the session and hands over no frame (a handoff changes `FRONT`: `PublishHandsOverBackFrame`); so
whatever words the display hardware writes to `EVT`, for as long as it likes, `FR` is not given, `ACK` stays 0 and the front
frame stays. -/
def Obligations.TearFreeHoldLastsUntilPublish : Prop :=
  (∀ (s : State) (t : State), step s = .next t → s.inited = true → t.inited = true → s.policy = .tearfree → s.ack = false →
    t.front = s.front → t.policy = .tearfree ∧ t.ack = false ∧ (s.fr = false → t.fr = false)) ∧
  (∀ (s : State) ws rest, s.policy = .tearfree → s.ack = false → s.schedule = eventWords ws ++ rest →
    ∃ t : State, Host.Core.run core ws.length s = .next t ∧ t.fr = s.fr ∧ t.ack = false ∧ t.front = s.front ∧
      (s.lastb = .hold → t.lastb = .hold) ∧ t.schedule = rest)

/-! ### The Double-Buffer Handoff (43_handoff.md) -/

/-- 43_handoff.md R187: `ACQUIRE` reports the back frame's index and changes only `RESULT`. -/
def Obligations.AcquireReportsBackFrame : Prop :=
  ∀ (s : State),
    (s.inited = true → exec .acquire s = .next { s with result := ⟨.ok, !s.front⟩ }) ∧
    (s.inited = false → exec .acquire s = .next { s with result := ⟨.errState, false⟩ })

/-- 43_handoff.md R189 to R191: `PUBLISH` of the back frame hands it over in one step, at once under `THROUGHPUT` or with
`FR = 1`; under `TEARFREE` with `FR = 0` it is held; a `PUBLISH` of the front frame, or without a session, is refused. -/
def Obligations.PublishHandsOverBackFrame : Prop :=
  ∀ (s : State) f,
    (s.inited = true → f = (!s.front) → (s.policy = .throughput ∨ s.fr = true) →
      exec (.publish f) s = .next { s with front := f, fr := false, ack := true, result := ⟨.ok, s.fr⟩ }) ∧
    (s.inited = true → f = (!s.front) → s.policy = .tearfree → s.fr = false →
      exec (.publish f) s = .next { s with pend := .publish }) ∧
    (s.inited = false ∨ f = s.front → exec (.publish f) s = .next { s with result := ⟨.errState, false⟩ })

/-- 43_handoff.md R194, R195: `WAIT_VSYNC` consumes `FR`, waiting for it under both policies. -/
def Obligations.WaitVsyncConsumesFrameReady : Prop :=
  ∀ (s : State),
    (s.inited = true → s.fr = true → exec .waitVsync s = .next { s with fr := false, result := ⟨.ok, true⟩ }) ∧
    (s.inited = true → s.fr = false → exec .waitVsync s = .next { s with pend := .waitVsync }) ∧
    (s.inited = false → exec .waitVsync s = .next { s with result := ⟨.errState, false⟩ })

/-- 43_handoff.md R196: `POLL_VSYNC` tests and consumes `FR` and never waits. -/
def Obligations.PollVsyncNeverWaits : Prop :=
  ∀ (s : State),
    (s.inited = true → exec .pollVsync s = .next { s with fr := false, result := ⟨.ok, s.fr⟩ }) ∧
    (s.inited = false → exec .pollVsync s = .next { s with result := ⟨.errState, false⟩ })

/-- 43_handoff.md R191: under `TEARFREE`, after a `PUBLISH` (`FR = 0`, `ACK = 1`), a second `PUBLISH` stays held while the
frame in progress is scanned, and commits in the host's turn after the frame's last line event. That the commit flips `FRONT`,
with no copy of the operand kept, is the model's reading of R190 (log 6, DEDUCED); turns are the model's (log 1). -/
def Obligations.SecondPublishWaitsForOneFrame : Prop :=
  ∀ (s : State) bufs rest, s.Inv → s.en = true → s.rstIn = false → s.policy = .tearfree → s.fr = false → s.ack = true →
    s.pend = .publish → s.schedule = lineEvents bufs ++ .hostTurn :: rest →
    (s.curCount.toNat + bufs.length < s.frameLength →
      ∃ t : State, Host.Core.run core (bufs.length + 1) s = .next t ∧ t.pend = .publish ∧ t.front = s.front ∧ t.fr = false ∧
        t.result = s.result) ∧
    (s.curCount.toNat + bufs.length = s.frameLength →
      ∃ t : State, Host.Core.run core (bufs.length + 1) s = .next t ∧ t.pend = .none ∧ t.front = (!s.front) ∧ t.fr = false ∧
        t.ack = true ∧ t.result = ⟨.ok, true⟩)

/-- 70_reset_and_hazards.md R273 items 1 and 2: a command held with nothing left to give `FR` (the display disabled, or
`TEARFREE` with `ACK = 0`) stays held through every run in which `rst` is not asserted. -/
def Obligations.DeadlockedCommandStaysHeld : Prop :=
  ∀ n (s : State) (t : State), s.pend ≠ .none → s.fr = false → (s.en = false ∨ (s.policy = .tearfree ∧ s.ack = false)) →
    AgentStep.rst true ∉ s.schedule → Host.Core.run core n s = .next t →
    t.pend = s.pend ∧ t.fr = false ∧ t.front = s.front ∧ t.result = s.result ∧ t.en = s.en

/-- 20_memory.md R78, 43_handoff.md R193, R198: within a session the front frame changes only in a handoff, which in the same
step clears `FR`, gives `ACK` and reports `OK` with the value `FR` had. -/
def Obligations.FrontChangesOnlyInHandoff : Prop :=
  ∀ (s : State) (t : State), step s = .next t → s.inited = true → t.inited = true → t.front ≠ s.front →
    t.fr = false ∧ t.ack = true ∧ t.result = ⟨.ok, s.fr⟩

/-- 43_handoff.md R197, 10_state.md R35: within a session only a frame boundary that ends in `SIGNAL_READY` gives `FR`, and
only a handoff gives `ACK`. -/
def Obligations.OneSetterPerSignal : Prop :=
  ∀ (s : State) (t : State), step s = .next t → s.inited = true → t.inited = true →
    (s.fr = false → t.fr = true → t.lastb = .signalReady ∧ t.curCount = 0 ∧ t.curSrc = s.geom.startOffset ∧ t.front = s.front) ∧
    (s.ack = false → t.ack = true → t.front ≠ s.front ∧ t.fr = false ∧ t.result.code = .ok)

/-! ### The lifecycle (44_lifecycle.md) -/

/-- 44_lifecycle.md R205, R209, 20_memory.md R66: a successful `INIT` writes what its rule lists, zero-fills both line
buffers in both views, and changes no other register (`draw`, the model's own, counts the draw of the frames' unspecified
content) and, outside the two new frames and the line buffers, no byte. -/
def Obligations.InitBeginsSession : Prop :=
  ∀ (s : State) pol w h g, (Instr.init pol w h).wf = true → s.inited = false → s.allocOk = true →
    calcGeom w h s.par.pw s.par.ph s.scale.toNat s.rot = some g →
    ∃ t, exec (.init pol w h) s = .next t ∧ t.lw.toNat = w ∧ t.lh.toNat = h ∧
      t = { s with
        lw := t.lw, lh := t.lh, policy := pol, geom := g.toRegs, geomValid := true, curSrc := g.toRegs.startOffset,
        curCount := 0, urf := false, front := false, fbValid0 := true, fbValid1 := true, lastb := .none, fr := true,
        ack := true, inited := true, result := ⟨.ok, false⟩, mem := t.mem, lbEng := t.lbEng, draw := t.draw } ∧
      (∀ b x, x < s.par.pw → t.enginePixel? b x = some 0x0000 ∧ t.devicePixel b x = 0x0000) ∧
      (∀ a, (∀ b, a < lbAddr s.par b 0 ∨ lbAddr s.par b s.par.pw ≤ a) →
        (∀ f, a < fbAddr s.par f 0 ∨ fbAddr s.par f (w * h) ≤ a) →
        t.mem.load a = s.mem.load a ∧ t.lbEng.load a = s.lbEng.load a)

/-- 44_lifecycle.md R205 to R208, 60_exceptions.md R234: the failures of `INIT`, in their order; each changes only
`RESULT`. -/
def Obligations.InitFailuresChangeOnlyResult : Prop :=
  ∀ (s : State) pol w h, (Instr.init pol w h).wf = true →
    (s.inited = true → exec (.init pol w h) s = .next { s with result := ⟨.errState, false⟩ }) ∧
    (s.inited = false → calcGeom w h s.par.pw s.par.ph s.scale.toNat s.rot = none →
      exec (.init pol w h) s = .next { s with result := ⟨.errConfig, false⟩ }) ∧
    (s.inited = false → calcGeom w h s.par.pw s.par.ph s.scale.toNat s.rot ≠ none → s.allocOk = false →
      exec (.init pol w h) s = .next { s with result := ⟨.errNomem, false⟩ })

/-- 44_lifecycle.md R210, R212: `ENABLE` starts the cursor on the change of `EN` from 0 to 1 only, and is refused without a
session or with a stale geometry; `DISABLE` is always `OK`. -/
def Obligations.EnableAndDisable : Prop :=
  ∀ (s : State),
    (s.inited = true → s.geomValid = true → s.en = false →
      exec .enable s = .next { s with
        en := true, curSrc := s.geom.startOffset, curCount := 0, urf := false, result := ⟨.ok, false⟩ }) ∧
    (s.inited = true → s.geomValid = true → s.en = true → exec .enable s = .next { s with result := ⟨.ok, false⟩ }) ∧
    (s.inited = false ∨ s.geomValid = false → exec .enable s = .next { s with result := ⟨.errState, false⟩ }) ∧
    exec .disable s = .next { s with en := false, result := ⟨.ok, false⟩ }

/-- 44_lifecycle.md R215, R216: `TEARDOWN` puts everything `INIT` writes back to 0 and keeps `SCALE`, `ROT` and `BACKLIGHT`
(`draw`, the model's own, counts a new draw); without a session, or with the display enabled, it is refused. -/
def Obligations.TeardownReversesInit : Prop :=
  ∀ (s : State),
    (s.inited = true → s.en = false → ∃ t, exec .teardown s = .next t ∧
      t = { s with
        inited := false, geomValid := false, front := false, fr := false, ack := false, urf := false, lastb := .none,
        fbValid0 := false, fbValid1 := false, lw := 0, lh := 0, policy := .throughput, geom := Geometry.zero,
        curSrc := 0, curCount := 0, result := ⟨.ok, false⟩, draw := t.draw }) ∧
    (s.inited = false ∨ s.en = true → exec .teardown s = .next { s with result := ⟨.errState, false⟩ })

/-- 44_lifecycle.md R215, R217: from a state that meets the invariants, with no command held, `TEARDOWN` leaves every register
as reset leaves it, but `RESULT`, `XFORM` (whose `POLICY` is cleared) and `BACKLIGHT`. -/
def Obligations.TeardownLeavesResetRegisters : Prop :=
  ∀ (s : State) (t : State) off, s.Inv → s.pend = .none → s.inited = true → s.en = false → exec .teardown s = .next t →
    off ≠ 0x04 → off ≠ 0x14 → off ≠ 0x48 → t.hostReg off = (State.resetWith s.par).hostReg off

/-- 44_lifecycle.md R218: `SET_BACKLIGHT` stores a percentage up to 100, ignores one above it, and is always `OK`. -/
def Obligations.SetBacklightIgnoresOutOfRange : Prop :=
  ∀ (s : State) pct, (Instr.setBacklight pct).wf = true →
    (pct ≤ 100 → ∃ t, exec (.setBacklight pct) s = .next t ∧ t.backlight.toNat = pct ∧
      t = { s with backlight := t.backlight, result := ⟨.ok, false⟩ }) ∧
    (100 < pct → exec (.setBacklight pct) s = .next { s with result := ⟨.ok, false⟩ })

/-- 60_exceptions.md R230, R231, R232, R234: every command completes with the code of the table, or is held, which only
`WAIT_VSYNC` and a tear-free `PUBLISH` can be, with `RESULT` unchanged. -/
def Obligations.EveryCommandGivesItsCode : Prop :=
  ∀ i (s : State), i.port = .cmd → i.wf = true →
    (¬ isHeldBy i s → ∃ t, exec i s = .next t ∧ t.result.code = resultCodeOf i s ∧ t.pend = s.pend) ∧
    (isHeldBy i s → ∃ p, p ≠ Held.none ∧ exec i s = .next { s with pend := p })

/-- 60_exceptions.md R230: a command that fails changes `RESULT` alone, with `VAL = 0`; a failing `RECOMPUTE` may also clear
`GEOM_VALID`. -/
def Obligations.FailedCommandChangesOnlyResult : Prop :=
  ∀ i (s : State) (t : State), i.port = .cmd → i.wf = true → ¬ isHeldBy i s → exec i s = .next t → t.result.code ≠ .ok →
    t.result.val = false ∧
    (t = { s with result := t.result } ∨
      i = .recompute ∧ t.result.code = .errConfig ∧ t = { s with result := t.result, geomValid := false })

/-- 10_state.md R28, R32, 20_memory.md R80: in a session with the display enabled, no command writes the configuration, the
geometry, the cursor or pixel memory. -/
def Obligations.CommandsLeaveEngineStateWhileEnabled : Prop :=
  ∀ i (s : State) (t : State), i.port = .cmd → s.inited = true → s.en = true → exec i s = .next t →
    t.lw = s.lw ∧ t.lh = s.lh ∧ t.scale = s.scale ∧ t.rot = s.rot ∧ t.policy = s.policy ∧ t.geom = s.geom ∧
    t.geomValid = s.geomValid ∧ t.curSrc = s.curSrc ∧ t.curCount = s.curCount ∧ t.urf = s.urf ∧ t.lastb = s.lastb ∧
    t.mem = s.mem ∧ t.lbEng = s.lbEng

/-! ### Invariants (10_state.md R49, 20_memory.md R72, 41_scanout.md R164) -/

/-- 10_state.md R48, R49: the state after reset, on every platform with legal parameters, meets every invariant below, and
no two windows in use overlap; the parameters of `State.reset`, the model's own (log 2), are legal, and its windows are apart
for every size of frame. -/
def Obligations.ResetMeetsInvariants : Prop :=
  (∀ p : Params, p.Valid →
    (State.resetWith p).Inv ∧ (State.resetWith p).Canonical ∧ (State.resetWith p).ViewsAgree ∧
    (State.resetWith p).MarginsBlack ∧ (State.resetWith p).WindowsApart) ∧
  Config.params.Valid ∧ (∀ s : State, s.par = Config.params → s.WindowsApart) ∧ State.reset = State.resetWith Config.params

/-- 10_state.md R49: every step, of every agent, keeps the invariants. -/
def Obligations.StepKeepsInvariants : Prop :=
  ∀ (s : State) (t : State), s.Inv → step s = .next t → t.Inv

/-- Every step keeps both memories in their canonical form (the form is the model's, log 3), and no step changes the
parameters (10_state.md R23). -/
def Obligations.StepKeepsMemoriesCanonical : Prop :=
  ∀ (s : State) (t : State), s.Canonical → step s = .next t → t.Canonical ∧ t.par = s.par

/-- 20_memory.md R72, R73: on a platform that keeps R70, the two views of both line buffers agree at every instant another agent
can observe. For the step of a producer's write into a line buffer, which R267 forbids, this is the model's choice: it changes
both views (log 17, DEDUCED). -/
def Obligations.StepKeepsViewsAgreeing : Prop :=
  ∀ (s : State) (t : State), s.WindowsApart → s.ViewsAgree → step s = .next t → t.ViewsAgree

/-- 41_scanout.md R164: every step but a producer's write into a line buffer (which 70_reset_and_hazards.md R267 forbids)
keeps the margins black. -/
def Obligations.StepKeepsMarginsBlack : Prop :=
  ∀ (s : State) (t : State), s.Inv → s.MarginsBlack → (∀ e rest, s.schedule = e :: rest → e.isLineBufferWrite = false) →
    step s = .next t → t.MarginsBlack

/-- 41_scanout.md R159, 60_exceptions.md R230, 20_memory.md R62, R63, R67, R69: no step is refused, and every operation of the
block has a next state. An access of the environment to a pixel faults exactly where the pixel does not exist (the fault is the
model's choice, log 8), and nothing else does. Where the pixel exists, a write stores its two bytes, `v[7:0]` at its address and
`v[15:8]` at the next, and changes no other byte; a read has no side effect but its data, which is the two bytes in the same
order (in a line buffer: in a session; outside one its content is unspecified, a free value, log 4). That a producer's write
into a line buffer changes the engine's view too is the model's choice (log 17, DEDUCED), and so is the place of the data,
`bus`, where a pixel is zero-extended (log 12). -/
def Obligations.OnlyPixelAccessesFault : Prop :=
  ((∀ (s : State) r, step s ≠ .refused r) ∧
    (∀ (s : State) f, step s = .fault f → ∃ e rest, s.schedule = e :: rest ∧ e.isPixelAccess = true) ∧
    (∀ i (s : State), ∃ t, exec i s = .next t)) ∧
  (∀ (s : State) f i v rest, s.schedule = .fbWrite f i v :: rest →
    if s.fbValid f = true ∧ i < s.lw.toNat * s.lh.toNat then
      ∃ m : Memory, step s = .next { s with schedule := rest, mem := m } ∧
        m.load (fbAddr s.par f i) = some (v.extractLsb' 0 8) ∧ m.load (fbAddr s.par f i + 1) = some (v.extractLsb' 8 8) ∧
        (∀ a, a < fbAddr s.par f i ∨ fbAddr s.par f i + 2 ≤ a → m.load a = s.mem.load a)
    else step s = .fault (.noFramePixel f i)) ∧
  (∀ (s : State) f i rest, s.schedule = .fbRead f i :: rest →
    if s.fbValid f = true ∧ i < s.lw.toNat * s.lh.toNat then
      ∃ p : Pixel, step s = .next { s with schedule := rest, bus := p.zeroExtend 32 } ∧ p = s.framePixel f i ∧
        (∀ b, s.mem.load (fbAddr s.par f i) = some b → p.extractLsb' 0 8 = b) ∧
        (∀ b, s.mem.load (fbAddr s.par f i + 1) = some b → p.extractLsb' 8 8 = b)
    else step s = .fault (.noFramePixel f i)) ∧
  (∀ (s : State) b x v rest, s.schedule = .lbWrite b x v :: rest →
    if x < s.par.pw then
      ∃ m e : Memory, step s = .next { s with schedule := rest, mem := m, lbEng := e } ∧
        (m.load (lbAddr s.par b x) = some (v.extractLsb' 0 8) ∧ m.load (lbAddr s.par b x + 1) = some (v.extractLsb' 8 8)) ∧
        (e.load (lbAddr s.par b x) = some (v.extractLsb' 0 8) ∧ e.load (lbAddr s.par b x + 1) = some (v.extractLsb' 8 8)) ∧
        (∀ a, a < lbAddr s.par b x ∨ lbAddr s.par b x + 2 ≤ a → m.load a = s.mem.load a ∧ e.load a = s.lbEng.load a)
    else step s = .fault (.noLinePixel b x)) ∧
  (∀ (s : State) b x rest, s.schedule = .lbRead b x :: rest →
    if x < s.par.pw then
      ∃ p : Pixel, step s = .next { s with schedule := rest, bus := p.zeroExtend 32 } ∧ p = s.devicePixel b x ∧
        (s.inited = true →
          (∀ v, s.mem.load (lbAddr s.par b x) = some v → p.extractLsb' 0 8 = v) ∧
          (∀ v, s.mem.load (lbAddr s.par b x + 1) = some v → p.extractLsb' 8 8 = v))
    else step s = .fault (.noLinePixel b x))
end

