-- ==== Sys2Proof/Laws/Memory.lean ====
section
/-! SUPPORT. The laws of memory: what a byte reads as after each operation, and that every operation keeps the canonical
form. -/

namespace Sys2Proof.Machine

theorem Memory.load_nil (a : Nat) : Memory.load [] a = none := rfl

theorem Memory.load_cons (c : Host.Cell) (m : Memory) (a : Nat) :
    Memory.load (c :: m) a = if c.1 = a then some c.2 else Memory.load m a := by
  unfold Memory.load
  by_cases hc : c.1 = a <;> simp [hc]

theorem Memory.load_append (m n : Memory) (a : Nat) :
    Memory.load (m ++ n) a = (Memory.load m a).or (Memory.load n a) := by
  unfold Memory.load
  rw [List.find?_append]
  cases List.find? (fun c => c.1 == a) m <;> rfl

/-- Dropping entries by address: a byte kept reads as before, a byte dropped is unlisted. -/
theorem Memory.load_filter (m : Memory) (p : Nat → Bool) (a : Nat) :
    Memory.load (m.filter (fun c => p c.1)) a = if p a then Memory.load m a else none := by
  induction m with
  | nil => simp [Memory.load]
  | cons c m ih =>
    rw [List.filter_cons]
    by_cases hp : p c.1 = true
    · rw [if_pos hp, Memory.load_cons, Memory.load_cons, ih]
      by_cases hc : c.1 = a
      · rw [if_pos hc, if_pos hc, if_pos (hc ▸ hp)]
      · rw [if_neg hc, if_neg hc]
    · rw [if_neg hp, ih, Memory.load_cons]
      by_cases hc : c.1 = a
      · rw [if_neg (hc ▸ hp), if_neg (hc ▸ hp)]
      · rw [if_neg hc]

theorem Memory.load_below (m : Memory) (x a : Nat) :
    (m.below x).load a = if a < x then m.load a else none := by
  have h := Memory.load_filter m (fun k => decide (k < x)) a
  simpa [Memory.below] using h

theorem Memory.load_atLeast (m : Memory) (x a : Nat) :
    (m.atLeast x).load a = if x ≤ a then m.load a else none := by
  have h := Memory.load_filter m (fun k => decide (x ≤ k)) a
  simpa [Memory.atLeast] using h

theorem Memory.load_slice (m : Memory) (lo hi a : Nat) :
    (m.slice lo hi).load a = if lo ≤ a ∧ a < hi then m.load a else none := by
  have h := Memory.load_filter m (fun k => decide (lo ≤ k) && decide (k < hi)) a
  simpa [Memory.slice] using h

/-- A forgotten byte is unlisted; every other byte reads as before. -/
theorem Memory.load_forget (m : Memory) (lo hi a : Nat) :
    (m.forget lo hi).load a = if lo ≤ a ∧ a < hi then none else m.load a := by
  have h := Memory.load_filter m (fun k => decide (k < lo) || decide (hi ≤ k)) a
  unfold Memory.forget
  rw [h]
  by_cases h1 : lo ≤ a ∧ a < hi
  · rw [if_pos h1, if_neg (by simp; omega)]
  · rw [if_neg h1, if_pos (by simp; omega)]

theorem Memory.load_run (bs : List Byte) (a x : Nat) :
    (Memory.run a bs).load x = if a ≤ x then bs[x - a]? else none := by
  induction bs generalizing a with
  | nil => simp [Memory.run, Memory.load]
  | cons b bs ih =>
    rw [Memory.run, Memory.load_cons, ih]
    by_cases h : a = x
    · subst h; simp
    · by_cases h2 : a ≤ x
      · have e : x - a = (x - (a + 1)) + 1 := by omega
        rw [if_neg h, if_pos h2, if_pos (by omega), e, List.getElem?_cons_succ]
      · rw [if_neg h, if_neg h2, if_neg (by omega)]

/-- What a byte reads as after a run of bytes is stored. -/
theorem Memory.load_store (m : Memory) (a : Nat) (bs : List Byte) (x : Nat) :
    (m.store a bs).load x = if a ≤ x ∧ x < a + bs.length then bs[x - a]? else m.load x := by
  unfold Memory.store
  rw [Memory.load_append, Memory.load_append, Memory.load_below, Memory.load_run, Memory.load_atLeast]
  by_cases h1 : x < a
  · rw [if_pos h1, if_neg (by omega), if_neg (by omega), if_neg (by omega)]
    cases m.load x <;> rfl
  · by_cases h2 : x < a + bs.length
    · have hx : bs[x - a]? = some bs[x - a] := List.getElem?_eq_getElem (by omega)
      rw [if_neg h1, if_pos (by omega), if_neg (by omega), if_pos ⟨by omega, h2⟩, hx]
      rfl
    · have hx : bs[x - a]? = none := List.getElem?_eq_none (by omega)
      rw [if_neg h1, if_pos (by omega), if_pos (by omega), if_neg (by omega), hx]
      rfl

/-- A byte outside the stored run reads as before. -/
theorem Memory.load_store_outside (m : Memory) (a : Nat) (bs : List Byte) (x : Nat)
    (h : x < a ∨ a + bs.length ≤ x) : (m.store a bs).load x = m.load x := by
  rw [Memory.load_store, if_neg (by omega)]

/-- What a byte reads as after a range is copied from another memory. -/
theorem Memory.load_copyRange (src dst : Memory) (lo hi x : Nat) :
    (src.copyRange dst lo hi).load x = if lo ≤ x ∧ x < hi then src.load x else dst.load x := by
  unfold Memory.copyRange
  rw [Memory.load_append, Memory.load_append, Memory.load_below, Memory.load_slice, Memory.load_atLeast]
  by_cases h1 : x < lo
  · rw [if_pos h1, if_neg (by omega), if_neg (by omega), if_neg (by omega)]
    cases dst.load x <;> rfl
  · by_cases h2 : x < hi
    · rw [if_neg h1, if_pos (by omega), if_neg (by omega), if_pos (by omega)]
      cases src.load x <;> rfl
    · rw [if_neg h1, if_neg (by omega), if_pos (by omega), if_neg (by omega)]
      cases dst.load x <;> rfl

theorem Memory.mem_run (a : Nat) (bs : List Byte) (c : Host.Cell) (h : c ∈ Memory.run a bs) :
    a ≤ c.1 ∧ c.1 < a + bs.length := by
  induction bs generalizing a with
  | nil => simp [Memory.run] at h
  | cons b bs ih =>
    rcases List.mem_cons.mp h with rfl | h'
    · simp
    · have := ih (a + 1) h'
      simp only [List.length_cons]
      omega

theorem Memory.run_wf (a : Nat) (bs : List Byte) : (Memory.run a bs).wf := by
  induction bs generalizing a with
  | nil => exact List.Pairwise.nil
  | cons b bs ih =>
    refine List.pairwise_cons.mpr ⟨fun c hc => ?_, ih (a + 1)⟩
    have := Memory.mem_run (a + 1) bs c hc
    show a < c.1
    omega

theorem Memory.filter_wf (m : Memory) (p : Host.Cell → Bool) (h : m.wf) : Memory.wf (m.filter p) := h.filter p

theorem Memory.append_wf (m n : Memory) (hm : m.wf) (hn : n.wf) (h : ∀ c ∈ m, ∀ d ∈ n, c.1 < d.1) :
    Memory.wf (m ++ n) := List.pairwise_append.mpr ⟨hm, hn, h⟩

theorem Memory.mem_below {m : Memory} {a : Nat} {c : Host.Cell} (h : c ∈ m.below a) : c.1 < a := by
  simpa using (List.mem_filter.mp h).2

theorem Memory.mem_atLeast {m : Memory} {a : Nat} {c : Host.Cell} (h : c ∈ m.atLeast a) : a ≤ c.1 := by
  simpa using (List.mem_filter.mp h).2

theorem Memory.mem_slice {m : Memory} {lo hi : Nat} {c : Host.Cell} (h : c ∈ m.slice lo hi) : lo ≤ c.1 ∧ c.1 < hi := by
  simpa using (List.mem_filter.mp h).2

/-- A store keeps the canonical form. -/
theorem Memory.store_wf (m : Memory) (a : Nat) (bs : List Byte) (h : m.wf) : (m.store a bs).wf := by
  refine Memory.append_wf _ _ (Memory.append_wf _ _ (Memory.filter_wf _ _ h) (Memory.run_wf a bs) ?_) (Memory.filter_wf _ _ h) ?_
  · intro c hc d hd
    exact lt_of_lt_of_le (Memory.mem_below hc) (Memory.mem_run a bs d hd).1
  · intro c hc d hd
    have hd' := Memory.mem_atLeast hd
    rcases List.mem_append.mp hc with hc | hc
    · have := Memory.mem_below hc
      omega
    · have := Memory.mem_run a bs c hc
      omega

/-- Forgetting a range keeps the canonical form. -/
theorem Memory.forget_wf (m : Memory) (lo hi : Nat) (h : m.wf) : (m.forget lo hi).wf := Memory.filter_wf _ _ h

/-- Copying a range keeps the canonical form. -/
theorem Memory.copyRange_wf (src dst : Memory) (lo hi : Nat) (hs : src.wf) (hd : dst.wf) :
    (src.copyRange dst lo hi).wf := by
  refine Memory.append_wf _ _ (Memory.append_wf _ _ (Memory.filter_wf _ _ hd) (Memory.filter_wf _ _ hs) ?_) (Memory.filter_wf _ _ hd) ?_
  · intro c hc d hd'
    exact lt_of_lt_of_le (Memory.mem_below hc) (Memory.mem_slice hd').1
  · intro c hc d hd'
    have h2 := Memory.mem_atLeast hd'
    rcases List.mem_append.mp hc with hc | hc
    · have := Memory.mem_below hc
      omega
    · have := Memory.mem_slice hc
      omega

end Sys2Proof.Machine
end

