-- ==== Sys2Proof/Laws/State.lean ====
section
/-! SUPPORT. One lemma per field per named update of the state, so that no proof unfolds a record update. -/

namespace Sys2Proof.Machine

variable (s : State)

@[simp] theorem State.give_fr_fr : (s.give .fr).fr = true := rfl
@[simp] theorem State.give_fr_ack : (s.give .fr).ack = s.ack := rfl
@[simp] theorem State.give_ack_fr : (s.give .ack).fr = s.fr := rfl
@[simp] theorem State.give_ack_ack : (s.give .ack).ack = true := rfl
@[simp] theorem State.consume_fr_fr : (s.consume .fr).fr = false := rfl
@[simp] theorem State.consume_fr_ack : (s.consume .fr).ack = s.ack := rfl
@[simp] theorem State.consume_ack_fr : (s.consume .ack).fr = s.fr := rfl
@[simp] theorem State.consume_ack_ack : (s.consume .ack).ack = false := rfl

@[simp] theorem State.setResult_par (c : ResultCode) (v : Bool) : (s.setResult c v).par = s.par := rfl
@[simp] theorem State.setResult_lw (c : ResultCode) (v : Bool) : (s.setResult c v).lw = s.lw := rfl
@[simp] theorem State.setResult_lh (c : ResultCode) (v : Bool) : (s.setResult c v).lh = s.lh := rfl
@[simp] theorem State.setResult_scale (c : ResultCode) (v : Bool) : (s.setResult c v).scale = s.scale := rfl
@[simp] theorem State.setResult_rot (c : ResultCode) (v : Bool) : (s.setResult c v).rot = s.rot := rfl
@[simp] theorem State.setResult_policy (c : ResultCode) (v : Bool) : (s.setResult c v).policy = s.policy := rfl
@[simp] theorem State.setResult_geom (c : ResultCode) (v : Bool) : (s.setResult c v).geom = s.geom := rfl
@[simp] theorem State.setResult_curSrc (c : ResultCode) (v : Bool) : (s.setResult c v).curSrc = s.curSrc := rfl
@[simp] theorem State.setResult_curCount (c : ResultCode) (v : Bool) : (s.setResult c v).curCount = s.curCount := rfl
@[simp] theorem State.setResult_urf (c : ResultCode) (v : Bool) : (s.setResult c v).urf = s.urf := rfl
@[simp] theorem State.setResult_inited (c : ResultCode) (v : Bool) : (s.setResult c v).inited = s.inited := rfl
@[simp] theorem State.setResult_en (c : ResultCode) (v : Bool) : (s.setResult c v).en = s.en := rfl
@[simp] theorem State.setResult_geomValid (c : ResultCode) (v : Bool) : (s.setResult c v).geomValid = s.geomValid := rfl
@[simp] theorem State.setResult_front (c : ResultCode) (v : Bool) : (s.setResult c v).front = s.front := rfl
@[simp] theorem State.setResult_fr (c : ResultCode) (v : Bool) : (s.setResult c v).fr = s.fr := rfl
@[simp] theorem State.setResult_ack (c : ResultCode) (v : Bool) : (s.setResult c v).ack = s.ack := rfl
@[simp] theorem State.setResult_sync (c : ResultCode) (v : Bool) : (s.setResult c v).sync = s.sync := rfl
@[simp] theorem State.setResult_lastb (c : ResultCode) (v : Bool) : (s.setResult c v).lastb = s.lastb := rfl
@[simp] theorem State.setResult_pend (c : ResultCode) (v : Bool) : (s.setResult c v).pend = s.pend := rfl
@[simp] theorem State.setResult_fbValid0 (c : ResultCode) (v : Bool) : (s.setResult c v).fbValid0 = s.fbValid0 := rfl
@[simp] theorem State.setResult_fbValid1 (c : ResultCode) (v : Bool) : (s.setResult c v).fbValid1 = s.fbValid1 := rfl
@[simp] theorem State.setResult_result (c : ResultCode) (v : Bool) : (s.setResult c v).result = ⟨c, v⟩ := rfl
@[simp] theorem State.setResult_backlight (c : ResultCode) (v : Bool) : (s.setResult c v).backlight = s.backlight := rfl
@[simp] theorem State.setResult_rearm (c : ResultCode) (v : Bool) : (s.setResult c v).rearm = s.rearm := rfl
@[simp] theorem State.setResult_mem (c : ResultCode) (v : Bool) : (s.setResult c v).mem = s.mem := rfl
@[simp] theorem State.setResult_lbEng (c : ResultCode) (v : Bool) : (s.setResult c v).lbEng = s.lbEng := rfl
@[simp] theorem State.setResult_allocOk (c : ResultCode) (v : Bool) : (s.setResult c v).allocOk = s.allocOk := rfl
@[simp] theorem State.setResult_rstIn (c : ResultCode) (v : Bool) : (s.setResult c v).rstIn = s.rstIn := rfl
@[simp] theorem State.setResult_draw (c : ResultCode) (v : Bool) : (s.setResult c v).draw = s.draw := rfl
@[simp] theorem State.setResult_schedule (c : ResultCode) (v : Bool) : (s.setResult c v).schedule = s.schedule := rfl
@[simp] theorem State.setResult_stalled (c : ResultCode) (v : Bool) : (s.setResult c v).stalled = s.stalled := rfl
@[simp] theorem State.setResult_bus (c : ResultCode) (v : Bool) : (s.setResult c v).bus = s.bus := rfl

@[simp] theorem State.cursorStart_par : (s.cursorStart).par = s.par := rfl
@[simp] theorem State.cursorStart_lw : (s.cursorStart).lw = s.lw := rfl
@[simp] theorem State.cursorStart_lh : (s.cursorStart).lh = s.lh := rfl
@[simp] theorem State.cursorStart_scale : (s.cursorStart).scale = s.scale := rfl
@[simp] theorem State.cursorStart_rot : (s.cursorStart).rot = s.rot := rfl
@[simp] theorem State.cursorStart_policy : (s.cursorStart).policy = s.policy := rfl
@[simp] theorem State.cursorStart_geom : (s.cursorStart).geom = s.geom := rfl
@[simp] theorem State.cursorStart_curSrc : (s.cursorStart).curSrc = s.geom.startOffset := rfl
@[simp] theorem State.cursorStart_curCount : (s.cursorStart).curCount = 0 := rfl
@[simp] theorem State.cursorStart_urf : (s.cursorStart).urf = false := rfl
@[simp] theorem State.cursorStart_inited : (s.cursorStart).inited = s.inited := rfl
@[simp] theorem State.cursorStart_en : (s.cursorStart).en = s.en := rfl
@[simp] theorem State.cursorStart_geomValid : (s.cursorStart).geomValid = s.geomValid := rfl
@[simp] theorem State.cursorStart_front : (s.cursorStart).front = s.front := rfl
@[simp] theorem State.cursorStart_fr : (s.cursorStart).fr = s.fr := rfl
@[simp] theorem State.cursorStart_ack : (s.cursorStart).ack = s.ack := rfl
@[simp] theorem State.cursorStart_sync : (s.cursorStart).sync = s.sync := rfl
@[simp] theorem State.cursorStart_lastb : (s.cursorStart).lastb = s.lastb := rfl
@[simp] theorem State.cursorStart_pend : (s.cursorStart).pend = s.pend := rfl
@[simp] theorem State.cursorStart_fbValid0 : (s.cursorStart).fbValid0 = s.fbValid0 := rfl
@[simp] theorem State.cursorStart_fbValid1 : (s.cursorStart).fbValid1 = s.fbValid1 := rfl
@[simp] theorem State.cursorStart_result : (s.cursorStart).result = s.result := rfl
@[simp] theorem State.cursorStart_backlight : (s.cursorStart).backlight = s.backlight := rfl
@[simp] theorem State.cursorStart_rearm : (s.cursorStart).rearm = s.rearm := rfl
@[simp] theorem State.cursorStart_mem : (s.cursorStart).mem = s.mem := rfl
@[simp] theorem State.cursorStart_lbEng : (s.cursorStart).lbEng = s.lbEng := rfl
@[simp] theorem State.cursorStart_allocOk : (s.cursorStart).allocOk = s.allocOk := rfl
@[simp] theorem State.cursorStart_rstIn : (s.cursorStart).rstIn = s.rstIn := rfl
@[simp] theorem State.cursorStart_draw : (s.cursorStart).draw = s.draw := rfl
@[simp] theorem State.cursorStart_schedule : (s.cursorStart).schedule = s.schedule := rfl
@[simp] theorem State.cursorStart_stalled : (s.cursorStart).stalled = s.stalled := rfl
@[simp] theorem State.cursorStart_bus : (s.cursorStart).bus = s.bus := rfl

@[simp] theorem State.give_par (sig : Signal) : (s.give sig).par = s.par := by cases sig <;> rfl
@[simp] theorem State.give_lw (sig : Signal) : (s.give sig).lw = s.lw := by cases sig <;> rfl
@[simp] theorem State.give_lh (sig : Signal) : (s.give sig).lh = s.lh := by cases sig <;> rfl
@[simp] theorem State.give_scale (sig : Signal) : (s.give sig).scale = s.scale := by cases sig <;> rfl
@[simp] theorem State.give_rot (sig : Signal) : (s.give sig).rot = s.rot := by cases sig <;> rfl
@[simp] theorem State.give_policy (sig : Signal) : (s.give sig).policy = s.policy := by cases sig <;> rfl
@[simp] theorem State.give_geom (sig : Signal) : (s.give sig).geom = s.geom := by cases sig <;> rfl
@[simp] theorem State.give_curSrc (sig : Signal) : (s.give sig).curSrc = s.curSrc := by cases sig <;> rfl
@[simp] theorem State.give_curCount (sig : Signal) : (s.give sig).curCount = s.curCount := by cases sig <;> rfl
@[simp] theorem State.give_urf (sig : Signal) : (s.give sig).urf = s.urf := by cases sig <;> rfl
@[simp] theorem State.give_inited (sig : Signal) : (s.give sig).inited = s.inited := by cases sig <;> rfl
@[simp] theorem State.give_en (sig : Signal) : (s.give sig).en = s.en := by cases sig <;> rfl
@[simp] theorem State.give_geomValid (sig : Signal) : (s.give sig).geomValid = s.geomValid := by cases sig <;> rfl
@[simp] theorem State.give_front (sig : Signal) : (s.give sig).front = s.front := by cases sig <;> rfl
@[simp] theorem State.give_sync (sig : Signal) : (s.give sig).sync = s.sync := by cases sig <;> rfl
@[simp] theorem State.give_lastb (sig : Signal) : (s.give sig).lastb = s.lastb := by cases sig <;> rfl
@[simp] theorem State.give_pend (sig : Signal) : (s.give sig).pend = s.pend := by cases sig <;> rfl
@[simp] theorem State.give_fbValid0 (sig : Signal) : (s.give sig).fbValid0 = s.fbValid0 := by cases sig <;> rfl
@[simp] theorem State.give_fbValid1 (sig : Signal) : (s.give sig).fbValid1 = s.fbValid1 := by cases sig <;> rfl
@[simp] theorem State.give_result (sig : Signal) : (s.give sig).result = s.result := by cases sig <;> rfl
@[simp] theorem State.give_backlight (sig : Signal) : (s.give sig).backlight = s.backlight := by cases sig <;> rfl
@[simp] theorem State.give_rearm (sig : Signal) : (s.give sig).rearm = s.rearm := by cases sig <;> rfl
@[simp] theorem State.give_mem (sig : Signal) : (s.give sig).mem = s.mem := by cases sig <;> rfl
@[simp] theorem State.give_lbEng (sig : Signal) : (s.give sig).lbEng = s.lbEng := by cases sig <;> rfl
@[simp] theorem State.give_allocOk (sig : Signal) : (s.give sig).allocOk = s.allocOk := by cases sig <;> rfl
@[simp] theorem State.give_rstIn (sig : Signal) : (s.give sig).rstIn = s.rstIn := by cases sig <;> rfl
@[simp] theorem State.give_draw (sig : Signal) : (s.give sig).draw = s.draw := by cases sig <;> rfl
@[simp] theorem State.give_schedule (sig : Signal) : (s.give sig).schedule = s.schedule := by cases sig <;> rfl
@[simp] theorem State.give_stalled (sig : Signal) : (s.give sig).stalled = s.stalled := by cases sig <;> rfl
@[simp] theorem State.give_bus (sig : Signal) : (s.give sig).bus = s.bus := by cases sig <;> rfl

@[simp] theorem State.consume_par (sig : Signal) : (s.consume sig).par = s.par := by cases sig <;> rfl
@[simp] theorem State.consume_lw (sig : Signal) : (s.consume sig).lw = s.lw := by cases sig <;> rfl
@[simp] theorem State.consume_lh (sig : Signal) : (s.consume sig).lh = s.lh := by cases sig <;> rfl
@[simp] theorem State.consume_scale (sig : Signal) : (s.consume sig).scale = s.scale := by cases sig <;> rfl
@[simp] theorem State.consume_rot (sig : Signal) : (s.consume sig).rot = s.rot := by cases sig <;> rfl
@[simp] theorem State.consume_policy (sig : Signal) : (s.consume sig).policy = s.policy := by cases sig <;> rfl
@[simp] theorem State.consume_geom (sig : Signal) : (s.consume sig).geom = s.geom := by cases sig <;> rfl
@[simp] theorem State.consume_curSrc (sig : Signal) : (s.consume sig).curSrc = s.curSrc := by cases sig <;> rfl
@[simp] theorem State.consume_curCount (sig : Signal) : (s.consume sig).curCount = s.curCount := by cases sig <;> rfl
@[simp] theorem State.consume_urf (sig : Signal) : (s.consume sig).urf = s.urf := by cases sig <;> rfl
@[simp] theorem State.consume_inited (sig : Signal) : (s.consume sig).inited = s.inited := by cases sig <;> rfl
@[simp] theorem State.consume_en (sig : Signal) : (s.consume sig).en = s.en := by cases sig <;> rfl
@[simp] theorem State.consume_geomValid (sig : Signal) : (s.consume sig).geomValid = s.geomValid := by cases sig <;> rfl
@[simp] theorem State.consume_front (sig : Signal) : (s.consume sig).front = s.front := by cases sig <;> rfl
@[simp] theorem State.consume_sync (sig : Signal) : (s.consume sig).sync = s.sync := by cases sig <;> rfl
@[simp] theorem State.consume_lastb (sig : Signal) : (s.consume sig).lastb = s.lastb := by cases sig <;> rfl
@[simp] theorem State.consume_pend (sig : Signal) : (s.consume sig).pend = s.pend := by cases sig <;> rfl
@[simp] theorem State.consume_fbValid0 (sig : Signal) : (s.consume sig).fbValid0 = s.fbValid0 := by cases sig <;> rfl
@[simp] theorem State.consume_fbValid1 (sig : Signal) : (s.consume sig).fbValid1 = s.fbValid1 := by cases sig <;> rfl
@[simp] theorem State.consume_result (sig : Signal) : (s.consume sig).result = s.result := by cases sig <;> rfl
@[simp] theorem State.consume_backlight (sig : Signal) : (s.consume sig).backlight = s.backlight := by cases sig <;> rfl
@[simp] theorem State.consume_rearm (sig : Signal) : (s.consume sig).rearm = s.rearm := by cases sig <;> rfl
@[simp] theorem State.consume_mem (sig : Signal) : (s.consume sig).mem = s.mem := by cases sig <;> rfl
@[simp] theorem State.consume_lbEng (sig : Signal) : (s.consume sig).lbEng = s.lbEng := by cases sig <;> rfl
@[simp] theorem State.consume_allocOk (sig : Signal) : (s.consume sig).allocOk = s.allocOk := by cases sig <;> rfl
@[simp] theorem State.consume_rstIn (sig : Signal) : (s.consume sig).rstIn = s.rstIn := by cases sig <;> rfl
@[simp] theorem State.consume_draw (sig : Signal) : (s.consume sig).draw = s.draw := by cases sig <;> rfl
@[simp] theorem State.consume_schedule (sig : Signal) : (s.consume sig).schedule = s.schedule := by cases sig <;> rfl
@[simp] theorem State.consume_stalled (sig : Signal) : (s.consume sig).stalled = s.stalled := by cases sig <;> rfl
@[simp] theorem State.consume_bus (sig : Signal) : (s.consume sig).bus = s.bus := by cases sig <;> rfl

@[simp] theorem State.lineStore_par (b : Bool) (x : Nat) (vs : List Pixel) : (s.lineStore b x vs).par = s.par := rfl
@[simp] theorem State.lineStore_lw (b : Bool) (x : Nat) (vs : List Pixel) : (s.lineStore b x vs).lw = s.lw := rfl
@[simp] theorem State.lineStore_lh (b : Bool) (x : Nat) (vs : List Pixel) : (s.lineStore b x vs).lh = s.lh := rfl
@[simp] theorem State.lineStore_scale (b : Bool) (x : Nat) (vs : List Pixel) : (s.lineStore b x vs).scale = s.scale := rfl
@[simp] theorem State.lineStore_rot (b : Bool) (x : Nat) (vs : List Pixel) : (s.lineStore b x vs).rot = s.rot := rfl
@[simp] theorem State.lineStore_policy (b : Bool) (x : Nat) (vs : List Pixel) : (s.lineStore b x vs).policy = s.policy := rfl
@[simp] theorem State.lineStore_geom (b : Bool) (x : Nat) (vs : List Pixel) : (s.lineStore b x vs).geom = s.geom := rfl
@[simp] theorem State.lineStore_curSrc (b : Bool) (x : Nat) (vs : List Pixel) : (s.lineStore b x vs).curSrc = s.curSrc := rfl
@[simp] theorem State.lineStore_curCount (b : Bool) (x : Nat) (vs : List Pixel) : (s.lineStore b x vs).curCount = s.curCount := rfl
@[simp] theorem State.lineStore_urf (b : Bool) (x : Nat) (vs : List Pixel) : (s.lineStore b x vs).urf = s.urf := rfl
@[simp] theorem State.lineStore_inited (b : Bool) (x : Nat) (vs : List Pixel) : (s.lineStore b x vs).inited = s.inited := rfl
@[simp] theorem State.lineStore_en (b : Bool) (x : Nat) (vs : List Pixel) : (s.lineStore b x vs).en = s.en := rfl
@[simp] theorem State.lineStore_geomValid (b : Bool) (x : Nat) (vs : List Pixel) : (s.lineStore b x vs).geomValid = s.geomValid := rfl
@[simp] theorem State.lineStore_front (b : Bool) (x : Nat) (vs : List Pixel) : (s.lineStore b x vs).front = s.front := rfl
@[simp] theorem State.lineStore_fr (b : Bool) (x : Nat) (vs : List Pixel) : (s.lineStore b x vs).fr = s.fr := rfl
@[simp] theorem State.lineStore_ack (b : Bool) (x : Nat) (vs : List Pixel) : (s.lineStore b x vs).ack = s.ack := rfl
@[simp] theorem State.lineStore_sync (b : Bool) (x : Nat) (vs : List Pixel) : (s.lineStore b x vs).sync = s.sync := rfl
@[simp] theorem State.lineStore_lastb (b : Bool) (x : Nat) (vs : List Pixel) : (s.lineStore b x vs).lastb = s.lastb := rfl
@[simp] theorem State.lineStore_pend (b : Bool) (x : Nat) (vs : List Pixel) : (s.lineStore b x vs).pend = s.pend := rfl
@[simp] theorem State.lineStore_fbValid0 (b : Bool) (x : Nat) (vs : List Pixel) : (s.lineStore b x vs).fbValid0 = s.fbValid0 := rfl
@[simp] theorem State.lineStore_fbValid1 (b : Bool) (x : Nat) (vs : List Pixel) : (s.lineStore b x vs).fbValid1 = s.fbValid1 := rfl
@[simp] theorem State.lineStore_result (b : Bool) (x : Nat) (vs : List Pixel) : (s.lineStore b x vs).result = s.result := rfl
@[simp] theorem State.lineStore_backlight (b : Bool) (x : Nat) (vs : List Pixel) : (s.lineStore b x vs).backlight = s.backlight := rfl
@[simp] theorem State.lineStore_rearm (b : Bool) (x : Nat) (vs : List Pixel) : (s.lineStore b x vs).rearm = s.rearm := rfl
@[simp] theorem State.lineStore_mem (b : Bool) (x : Nat) (vs : List Pixel) : (s.lineStore b x vs).mem = s.mem := rfl
@[simp] theorem State.lineStore_lbEng (b : Bool) (x : Nat) (vs : List Pixel) : (s.lineStore b x vs).lbEng = s.lbEng.store (lbAddr s.par b x) (runBytes vs) := rfl
@[simp] theorem State.lineStore_allocOk (b : Bool) (x : Nat) (vs : List Pixel) : (s.lineStore b x vs).allocOk = s.allocOk := rfl
@[simp] theorem State.lineStore_rstIn (b : Bool) (x : Nat) (vs : List Pixel) : (s.lineStore b x vs).rstIn = s.rstIn := rfl
@[simp] theorem State.lineStore_draw (b : Bool) (x : Nat) (vs : List Pixel) : (s.lineStore b x vs).draw = s.draw := rfl
@[simp] theorem State.lineStore_schedule (b : Bool) (x : Nat) (vs : List Pixel) : (s.lineStore b x vs).schedule = s.schedule := rfl
@[simp] theorem State.lineStore_stalled (b : Bool) (x : Nat) (vs : List Pixel) : (s.lineStore b x vs).stalled = s.stalled := rfl
@[simp] theorem State.lineStore_bus (b : Bool) (x : Nat) (vs : List Pixel) : (s.lineStore b x vs).bus = s.bus := rfl

@[simp] theorem State.flush_par (b : Bool) (x y : Nat) : (s.flush b x y).par = s.par := rfl
@[simp] theorem State.flush_lw (b : Bool) (x y : Nat) : (s.flush b x y).lw = s.lw := rfl
@[simp] theorem State.flush_lh (b : Bool) (x y : Nat) : (s.flush b x y).lh = s.lh := rfl
@[simp] theorem State.flush_scale (b : Bool) (x y : Nat) : (s.flush b x y).scale = s.scale := rfl
@[simp] theorem State.flush_rot (b : Bool) (x y : Nat) : (s.flush b x y).rot = s.rot := rfl
@[simp] theorem State.flush_policy (b : Bool) (x y : Nat) : (s.flush b x y).policy = s.policy := rfl
@[simp] theorem State.flush_geom (b : Bool) (x y : Nat) : (s.flush b x y).geom = s.geom := rfl
@[simp] theorem State.flush_curSrc (b : Bool) (x y : Nat) : (s.flush b x y).curSrc = s.curSrc := rfl
@[simp] theorem State.flush_curCount (b : Bool) (x y : Nat) : (s.flush b x y).curCount = s.curCount := rfl
@[simp] theorem State.flush_urf (b : Bool) (x y : Nat) : (s.flush b x y).urf = s.urf := rfl
@[simp] theorem State.flush_inited (b : Bool) (x y : Nat) : (s.flush b x y).inited = s.inited := rfl
@[simp] theorem State.flush_en (b : Bool) (x y : Nat) : (s.flush b x y).en = s.en := rfl
@[simp] theorem State.flush_geomValid (b : Bool) (x y : Nat) : (s.flush b x y).geomValid = s.geomValid := rfl
@[simp] theorem State.flush_front (b : Bool) (x y : Nat) : (s.flush b x y).front = s.front := rfl
@[simp] theorem State.flush_fr (b : Bool) (x y : Nat) : (s.flush b x y).fr = s.fr := rfl
@[simp] theorem State.flush_ack (b : Bool) (x y : Nat) : (s.flush b x y).ack = s.ack := rfl
@[simp] theorem State.flush_sync (b : Bool) (x y : Nat) : (s.flush b x y).sync = s.sync := rfl
@[simp] theorem State.flush_lastb (b : Bool) (x y : Nat) : (s.flush b x y).lastb = s.lastb := rfl
@[simp] theorem State.flush_pend (b : Bool) (x y : Nat) : (s.flush b x y).pend = s.pend := rfl
@[simp] theorem State.flush_fbValid0 (b : Bool) (x y : Nat) : (s.flush b x y).fbValid0 = s.fbValid0 := rfl
@[simp] theorem State.flush_fbValid1 (b : Bool) (x y : Nat) : (s.flush b x y).fbValid1 = s.fbValid1 := rfl
@[simp] theorem State.flush_result (b : Bool) (x y : Nat) : (s.flush b x y).result = s.result := rfl
@[simp] theorem State.flush_backlight (b : Bool) (x y : Nat) : (s.flush b x y).backlight = s.backlight := rfl
@[simp] theorem State.flush_rearm (b : Bool) (x y : Nat) : (s.flush b x y).rearm = s.rearm := rfl
@[simp] theorem State.flush_mem (b : Bool) (x y : Nat) : (s.flush b x y).mem = s.lbEng.copyRange s.mem (lbAddr s.par b x) (lbAddr s.par b y) := rfl
@[simp] theorem State.flush_lbEng (b : Bool) (x y : Nat) : (s.flush b x y).lbEng = s.lbEng := rfl
@[simp] theorem State.flush_allocOk (b : Bool) (x y : Nat) : (s.flush b x y).allocOk = s.allocOk := rfl
@[simp] theorem State.flush_rstIn (b : Bool) (x y : Nat) : (s.flush b x y).rstIn = s.rstIn := rfl
@[simp] theorem State.flush_draw (b : Bool) (x y : Nat) : (s.flush b x y).draw = s.draw := rfl
@[simp] theorem State.flush_schedule (b : Bool) (x y : Nat) : (s.flush b x y).schedule = s.schedule := rfl
@[simp] theorem State.flush_stalled (b : Bool) (x y : Nat) : (s.flush b x y).stalled = s.stalled := rfl
@[simp] theorem State.flush_bus (b : Bool) (x y : Nat) : (s.flush b x y).bus = s.bus := rfl

@[simp] theorem State.lineWrite_par (b : Bool) (x : Nat) (vs : List Pixel) : (s.lineWrite b x vs).par = s.par := by simp only [State.lineWrite, State.flush_par, State.lineStore_par]
@[simp] theorem State.lineWrite_lw (b : Bool) (x : Nat) (vs : List Pixel) : (s.lineWrite b x vs).lw = s.lw := by simp only [State.lineWrite, State.flush_lw, State.lineStore_lw]
@[simp] theorem State.lineWrite_lh (b : Bool) (x : Nat) (vs : List Pixel) : (s.lineWrite b x vs).lh = s.lh := by simp only [State.lineWrite, State.flush_lh, State.lineStore_lh]
@[simp] theorem State.lineWrite_scale (b : Bool) (x : Nat) (vs : List Pixel) : (s.lineWrite b x vs).scale = s.scale := by simp only [State.lineWrite, State.flush_scale, State.lineStore_scale]
@[simp] theorem State.lineWrite_rot (b : Bool) (x : Nat) (vs : List Pixel) : (s.lineWrite b x vs).rot = s.rot := by simp only [State.lineWrite, State.flush_rot, State.lineStore_rot]
@[simp] theorem State.lineWrite_policy (b : Bool) (x : Nat) (vs : List Pixel) : (s.lineWrite b x vs).policy = s.policy := by simp only [State.lineWrite, State.flush_policy, State.lineStore_policy]
@[simp] theorem State.lineWrite_geom (b : Bool) (x : Nat) (vs : List Pixel) : (s.lineWrite b x vs).geom = s.geom := by simp only [State.lineWrite, State.flush_geom, State.lineStore_geom]
@[simp] theorem State.lineWrite_curSrc (b : Bool) (x : Nat) (vs : List Pixel) : (s.lineWrite b x vs).curSrc = s.curSrc := by simp only [State.lineWrite, State.flush_curSrc, State.lineStore_curSrc]
@[simp] theorem State.lineWrite_curCount (b : Bool) (x : Nat) (vs : List Pixel) : (s.lineWrite b x vs).curCount = s.curCount := by simp only [State.lineWrite, State.flush_curCount, State.lineStore_curCount]
@[simp] theorem State.lineWrite_urf (b : Bool) (x : Nat) (vs : List Pixel) : (s.lineWrite b x vs).urf = s.urf := by simp only [State.lineWrite, State.flush_urf, State.lineStore_urf]
@[simp] theorem State.lineWrite_inited (b : Bool) (x : Nat) (vs : List Pixel) : (s.lineWrite b x vs).inited = s.inited := by simp only [State.lineWrite, State.flush_inited, State.lineStore_inited]
@[simp] theorem State.lineWrite_en (b : Bool) (x : Nat) (vs : List Pixel) : (s.lineWrite b x vs).en = s.en := by simp only [State.lineWrite, State.flush_en, State.lineStore_en]
@[simp] theorem State.lineWrite_geomValid (b : Bool) (x : Nat) (vs : List Pixel) : (s.lineWrite b x vs).geomValid = s.geomValid := by simp only [State.lineWrite, State.flush_geomValid, State.lineStore_geomValid]
@[simp] theorem State.lineWrite_front (b : Bool) (x : Nat) (vs : List Pixel) : (s.lineWrite b x vs).front = s.front := by simp only [State.lineWrite, State.flush_front, State.lineStore_front]
@[simp] theorem State.lineWrite_fr (b : Bool) (x : Nat) (vs : List Pixel) : (s.lineWrite b x vs).fr = s.fr := by simp only [State.lineWrite, State.flush_fr, State.lineStore_fr]
@[simp] theorem State.lineWrite_ack (b : Bool) (x : Nat) (vs : List Pixel) : (s.lineWrite b x vs).ack = s.ack := by simp only [State.lineWrite, State.flush_ack, State.lineStore_ack]
@[simp] theorem State.lineWrite_sync (b : Bool) (x : Nat) (vs : List Pixel) : (s.lineWrite b x vs).sync = s.sync := by simp only [State.lineWrite, State.flush_sync, State.lineStore_sync]
@[simp] theorem State.lineWrite_lastb (b : Bool) (x : Nat) (vs : List Pixel) : (s.lineWrite b x vs).lastb = s.lastb := by simp only [State.lineWrite, State.flush_lastb, State.lineStore_lastb]
@[simp] theorem State.lineWrite_pend (b : Bool) (x : Nat) (vs : List Pixel) : (s.lineWrite b x vs).pend = s.pend := by simp only [State.lineWrite, State.flush_pend, State.lineStore_pend]
@[simp] theorem State.lineWrite_fbValid0 (b : Bool) (x : Nat) (vs : List Pixel) : (s.lineWrite b x vs).fbValid0 = s.fbValid0 := by simp only [State.lineWrite, State.flush_fbValid0, State.lineStore_fbValid0]
@[simp] theorem State.lineWrite_fbValid1 (b : Bool) (x : Nat) (vs : List Pixel) : (s.lineWrite b x vs).fbValid1 = s.fbValid1 := by simp only [State.lineWrite, State.flush_fbValid1, State.lineStore_fbValid1]
@[simp] theorem State.lineWrite_result (b : Bool) (x : Nat) (vs : List Pixel) : (s.lineWrite b x vs).result = s.result := by simp only [State.lineWrite, State.flush_result, State.lineStore_result]
@[simp] theorem State.lineWrite_backlight (b : Bool) (x : Nat) (vs : List Pixel) : (s.lineWrite b x vs).backlight = s.backlight := by simp only [State.lineWrite, State.flush_backlight, State.lineStore_backlight]
@[simp] theorem State.lineWrite_rearm (b : Bool) (x : Nat) (vs : List Pixel) : (s.lineWrite b x vs).rearm = s.rearm := by simp only [State.lineWrite, State.flush_rearm, State.lineStore_rearm]
@[simp] theorem State.lineWrite_lbEng (b : Bool) (x : Nat) (vs : List Pixel) : (s.lineWrite b x vs).lbEng = s.lbEng.store (lbAddr s.par b x) (runBytes vs) := by simp only [State.lineWrite, State.flush_lbEng, State.lineStore_lbEng]
@[simp] theorem State.lineWrite_allocOk (b : Bool) (x : Nat) (vs : List Pixel) : (s.lineWrite b x vs).allocOk = s.allocOk := by simp only [State.lineWrite, State.flush_allocOk, State.lineStore_allocOk]
@[simp] theorem State.lineWrite_rstIn (b : Bool) (x : Nat) (vs : List Pixel) : (s.lineWrite b x vs).rstIn = s.rstIn := by simp only [State.lineWrite, State.flush_rstIn, State.lineStore_rstIn]
@[simp] theorem State.lineWrite_draw (b : Bool) (x : Nat) (vs : List Pixel) : (s.lineWrite b x vs).draw = s.draw := by simp only [State.lineWrite, State.flush_draw, State.lineStore_draw]
@[simp] theorem State.lineWrite_schedule (b : Bool) (x : Nat) (vs : List Pixel) : (s.lineWrite b x vs).schedule = s.schedule := by simp only [State.lineWrite, State.flush_schedule, State.lineStore_schedule]
@[simp] theorem State.lineWrite_stalled (b : Bool) (x : Nat) (vs : List Pixel) : (s.lineWrite b x vs).stalled = s.stalled := by simp only [State.lineWrite, State.flush_stalled, State.lineStore_stalled]
@[simp] theorem State.lineWrite_bus (b : Bool) (x : Nat) (vs : List Pixel) : (s.lineWrite b x vs).bus = s.bus := by simp only [State.lineWrite, State.flush_bus, State.lineStore_bus]

@[simp] theorem State.blankLine_par (b : Bool) : (s.blankLine b).par = s.par := by simp only [State.blankLine, State.lineWrite_par]
@[simp] theorem State.blankLine_lw (b : Bool) : (s.blankLine b).lw = s.lw := by simp only [State.blankLine, State.lineWrite_lw]
@[simp] theorem State.blankLine_lh (b : Bool) : (s.blankLine b).lh = s.lh := by simp only [State.blankLine, State.lineWrite_lh]
@[simp] theorem State.blankLine_scale (b : Bool) : (s.blankLine b).scale = s.scale := by simp only [State.blankLine, State.lineWrite_scale]
@[simp] theorem State.blankLine_rot (b : Bool) : (s.blankLine b).rot = s.rot := by simp only [State.blankLine, State.lineWrite_rot]
@[simp] theorem State.blankLine_policy (b : Bool) : (s.blankLine b).policy = s.policy := by simp only [State.blankLine, State.lineWrite_policy]
@[simp] theorem State.blankLine_geom (b : Bool) : (s.blankLine b).geom = s.geom := by simp only [State.blankLine, State.lineWrite_geom]
@[simp] theorem State.blankLine_curSrc (b : Bool) : (s.blankLine b).curSrc = s.curSrc := by simp only [State.blankLine, State.lineWrite_curSrc]
@[simp] theorem State.blankLine_curCount (b : Bool) : (s.blankLine b).curCount = s.curCount := by simp only [State.blankLine, State.lineWrite_curCount]
@[simp] theorem State.blankLine_urf (b : Bool) : (s.blankLine b).urf = s.urf := by simp only [State.blankLine, State.lineWrite_urf]
@[simp] theorem State.blankLine_inited (b : Bool) : (s.blankLine b).inited = s.inited := by simp only [State.blankLine, State.lineWrite_inited]
@[simp] theorem State.blankLine_en (b : Bool) : (s.blankLine b).en = s.en := by simp only [State.blankLine, State.lineWrite_en]
@[simp] theorem State.blankLine_geomValid (b : Bool) : (s.blankLine b).geomValid = s.geomValid := by simp only [State.blankLine, State.lineWrite_geomValid]
@[simp] theorem State.blankLine_front (b : Bool) : (s.blankLine b).front = s.front := by simp only [State.blankLine, State.lineWrite_front]
@[simp] theorem State.blankLine_fr (b : Bool) : (s.blankLine b).fr = s.fr := by simp only [State.blankLine, State.lineWrite_fr]
@[simp] theorem State.blankLine_ack (b : Bool) : (s.blankLine b).ack = s.ack := by simp only [State.blankLine, State.lineWrite_ack]
@[simp] theorem State.blankLine_sync (b : Bool) : (s.blankLine b).sync = s.sync := by simp only [State.blankLine, State.lineWrite_sync]
@[simp] theorem State.blankLine_lastb (b : Bool) : (s.blankLine b).lastb = s.lastb := by simp only [State.blankLine, State.lineWrite_lastb]
@[simp] theorem State.blankLine_pend (b : Bool) : (s.blankLine b).pend = s.pend := by simp only [State.blankLine, State.lineWrite_pend]
@[simp] theorem State.blankLine_fbValid0 (b : Bool) : (s.blankLine b).fbValid0 = s.fbValid0 := by simp only [State.blankLine, State.lineWrite_fbValid0]
@[simp] theorem State.blankLine_fbValid1 (b : Bool) : (s.blankLine b).fbValid1 = s.fbValid1 := by simp only [State.blankLine, State.lineWrite_fbValid1]
@[simp] theorem State.blankLine_result (b : Bool) : (s.blankLine b).result = s.result := by simp only [State.blankLine, State.lineWrite_result]
@[simp] theorem State.blankLine_backlight (b : Bool) : (s.blankLine b).backlight = s.backlight := by simp only [State.blankLine, State.lineWrite_backlight]
@[simp] theorem State.blankLine_rearm (b : Bool) : (s.blankLine b).rearm = s.rearm := by simp only [State.blankLine, State.lineWrite_rearm]
@[simp] theorem State.blankLine_allocOk (b : Bool) : (s.blankLine b).allocOk = s.allocOk := by simp only [State.blankLine, State.lineWrite_allocOk]
@[simp] theorem State.blankLine_rstIn (b : Bool) : (s.blankLine b).rstIn = s.rstIn := by simp only [State.blankLine, State.lineWrite_rstIn]
@[simp] theorem State.blankLine_draw (b : Bool) : (s.blankLine b).draw = s.draw := by simp only [State.blankLine, State.lineWrite_draw]
@[simp] theorem State.blankLine_schedule (b : Bool) : (s.blankLine b).schedule = s.schedule := by simp only [State.blankLine, State.lineWrite_schedule]
@[simp] theorem State.blankLine_stalled (b : Bool) : (s.blankLine b).stalled = s.stalled := by simp only [State.blankLine, State.lineWrite_stalled]
@[simp] theorem State.blankLine_bus (b : Bool) : (s.blankLine b).bus = s.bus := by simp only [State.blankLine, State.lineWrite_bus]

@[simp] theorem State.zeroFill_par : (s.zeroFill).par = s.par := by simp only [State.zeroFill, State.blankLine_par]
@[simp] theorem State.zeroFill_lw : (s.zeroFill).lw = s.lw := by simp only [State.zeroFill, State.blankLine_lw]
@[simp] theorem State.zeroFill_lh : (s.zeroFill).lh = s.lh := by simp only [State.zeroFill, State.blankLine_lh]
@[simp] theorem State.zeroFill_scale : (s.zeroFill).scale = s.scale := by simp only [State.zeroFill, State.blankLine_scale]
@[simp] theorem State.zeroFill_rot : (s.zeroFill).rot = s.rot := by simp only [State.zeroFill, State.blankLine_rot]
@[simp] theorem State.zeroFill_policy : (s.zeroFill).policy = s.policy := by simp only [State.zeroFill, State.blankLine_policy]
@[simp] theorem State.zeroFill_geom : (s.zeroFill).geom = s.geom := by simp only [State.zeroFill, State.blankLine_geom]
@[simp] theorem State.zeroFill_curSrc : (s.zeroFill).curSrc = s.curSrc := by simp only [State.zeroFill, State.blankLine_curSrc]
@[simp] theorem State.zeroFill_curCount : (s.zeroFill).curCount = s.curCount := by simp only [State.zeroFill, State.blankLine_curCount]
@[simp] theorem State.zeroFill_urf : (s.zeroFill).urf = s.urf := by simp only [State.zeroFill, State.blankLine_urf]
@[simp] theorem State.zeroFill_inited : (s.zeroFill).inited = s.inited := by simp only [State.zeroFill, State.blankLine_inited]
@[simp] theorem State.zeroFill_en : (s.zeroFill).en = s.en := by simp only [State.zeroFill, State.blankLine_en]
@[simp] theorem State.zeroFill_geomValid : (s.zeroFill).geomValid = s.geomValid := by simp only [State.zeroFill, State.blankLine_geomValid]
@[simp] theorem State.zeroFill_front : (s.zeroFill).front = s.front := by simp only [State.zeroFill, State.blankLine_front]
@[simp] theorem State.zeroFill_fr : (s.zeroFill).fr = s.fr := by simp only [State.zeroFill, State.blankLine_fr]
@[simp] theorem State.zeroFill_ack : (s.zeroFill).ack = s.ack := by simp only [State.zeroFill, State.blankLine_ack]
@[simp] theorem State.zeroFill_sync : (s.zeroFill).sync = s.sync := by simp only [State.zeroFill, State.blankLine_sync]
@[simp] theorem State.zeroFill_lastb : (s.zeroFill).lastb = s.lastb := by simp only [State.zeroFill, State.blankLine_lastb]
@[simp] theorem State.zeroFill_pend : (s.zeroFill).pend = s.pend := by simp only [State.zeroFill, State.blankLine_pend]
@[simp] theorem State.zeroFill_fbValid0 : (s.zeroFill).fbValid0 = s.fbValid0 := by simp only [State.zeroFill, State.blankLine_fbValid0]
@[simp] theorem State.zeroFill_fbValid1 : (s.zeroFill).fbValid1 = s.fbValid1 := by simp only [State.zeroFill, State.blankLine_fbValid1]
@[simp] theorem State.zeroFill_result : (s.zeroFill).result = s.result := by simp only [State.zeroFill, State.blankLine_result]
@[simp] theorem State.zeroFill_backlight : (s.zeroFill).backlight = s.backlight := by simp only [State.zeroFill, State.blankLine_backlight]
@[simp] theorem State.zeroFill_rearm : (s.zeroFill).rearm = s.rearm := by simp only [State.zeroFill, State.blankLine_rearm]
@[simp] theorem State.zeroFill_allocOk : (s.zeroFill).allocOk = s.allocOk := by simp only [State.zeroFill, State.blankLine_allocOk]
@[simp] theorem State.zeroFill_rstIn : (s.zeroFill).rstIn = s.rstIn := by simp only [State.zeroFill, State.blankLine_rstIn]
@[simp] theorem State.zeroFill_draw : (s.zeroFill).draw = s.draw := by simp only [State.zeroFill, State.blankLine_draw]
@[simp] theorem State.zeroFill_schedule : (s.zeroFill).schedule = s.schedule := by simp only [State.zeroFill, State.blankLine_schedule]
@[simp] theorem State.zeroFill_stalled : (s.zeroFill).stalled = s.stalled := by simp only [State.zeroFill, State.blankLine_stalled]
@[simp] theorem State.zeroFill_bus : (s.zeroFill).bus = s.bus := by simp only [State.zeroFill, State.blankLine_bus]

@[simp] theorem State.newFrames_par : (s.newFrames).par = s.par := rfl
@[simp] theorem State.newFrames_lw : (s.newFrames).lw = s.lw := rfl
@[simp] theorem State.newFrames_lh : (s.newFrames).lh = s.lh := rfl
@[simp] theorem State.newFrames_scale : (s.newFrames).scale = s.scale := rfl
@[simp] theorem State.newFrames_rot : (s.newFrames).rot = s.rot := rfl
@[simp] theorem State.newFrames_policy : (s.newFrames).policy = s.policy := rfl
@[simp] theorem State.newFrames_geom : (s.newFrames).geom = s.geom := rfl
@[simp] theorem State.newFrames_curSrc : (s.newFrames).curSrc = s.curSrc := rfl
@[simp] theorem State.newFrames_curCount : (s.newFrames).curCount = s.curCount := rfl
@[simp] theorem State.newFrames_urf : (s.newFrames).urf = s.urf := rfl
@[simp] theorem State.newFrames_inited : (s.newFrames).inited = s.inited := rfl
@[simp] theorem State.newFrames_en : (s.newFrames).en = s.en := rfl
@[simp] theorem State.newFrames_geomValid : (s.newFrames).geomValid = s.geomValid := rfl
@[simp] theorem State.newFrames_front : (s.newFrames).front = s.front := rfl
@[simp] theorem State.newFrames_fr : (s.newFrames).fr = s.fr := rfl
@[simp] theorem State.newFrames_ack : (s.newFrames).ack = s.ack := rfl
@[simp] theorem State.newFrames_sync : (s.newFrames).sync = s.sync := rfl
@[simp] theorem State.newFrames_lastb : (s.newFrames).lastb = s.lastb := rfl
@[simp] theorem State.newFrames_pend : (s.newFrames).pend = s.pend := rfl
@[simp] theorem State.newFrames_fbValid0 : (s.newFrames).fbValid0 = s.fbValid0 := rfl
@[simp] theorem State.newFrames_fbValid1 : (s.newFrames).fbValid1 = s.fbValid1 := rfl
@[simp] theorem State.newFrames_result : (s.newFrames).result = s.result := rfl
@[simp] theorem State.newFrames_backlight : (s.newFrames).backlight = s.backlight := rfl
@[simp] theorem State.newFrames_rearm : (s.newFrames).rearm = s.rearm := rfl
@[simp] theorem State.newFrames_lbEng : (s.newFrames).lbEng = s.lbEng := rfl
@[simp] theorem State.newFrames_allocOk : (s.newFrames).allocOk = s.allocOk := rfl
@[simp] theorem State.newFrames_rstIn : (s.newFrames).rstIn = s.rstIn := rfl
@[simp] theorem State.newFrames_draw : (s.newFrames).draw = s.draw + 1 := rfl
@[simp] theorem State.newFrames_schedule : (s.newFrames).schedule = s.schedule := rfl
@[simp] theorem State.newFrames_stalled : (s.newFrames).stalled = s.stalled := rfl
@[simp] theorem State.newFrames_bus : (s.newFrames).bus = s.bus := rfl

@[simp] theorem State.loadGeometry_par (g : Geometry Int) : (s.loadGeometry g).par = s.par := by simp only [State.loadGeometry, State.zeroFill_par, State.cursorStart_par]
@[simp] theorem State.loadGeometry_lw (g : Geometry Int) : (s.loadGeometry g).lw = s.lw := by simp only [State.loadGeometry, State.zeroFill_lw, State.cursorStart_lw]
@[simp] theorem State.loadGeometry_lh (g : Geometry Int) : (s.loadGeometry g).lh = s.lh := by simp only [State.loadGeometry, State.zeroFill_lh, State.cursorStart_lh]
@[simp] theorem State.loadGeometry_scale (g : Geometry Int) : (s.loadGeometry g).scale = s.scale := by simp only [State.loadGeometry, State.zeroFill_scale, State.cursorStart_scale]
@[simp] theorem State.loadGeometry_rot (g : Geometry Int) : (s.loadGeometry g).rot = s.rot := by simp only [State.loadGeometry, State.zeroFill_rot, State.cursorStart_rot]
@[simp] theorem State.loadGeometry_policy (g : Geometry Int) : (s.loadGeometry g).policy = s.policy := by simp only [State.loadGeometry, State.zeroFill_policy, State.cursorStart_policy]
@[simp] theorem State.loadGeometry_geom (g : Geometry Int) : (s.loadGeometry g).geom = g.toRegs := by simp only [State.loadGeometry, State.zeroFill_geom, State.cursorStart_geom]
@[simp] theorem State.loadGeometry_curSrc (g : Geometry Int) : (s.loadGeometry g).curSrc = g.toRegs.startOffset := by simp only [State.loadGeometry, State.zeroFill_curSrc, State.cursorStart_curSrc]
@[simp] theorem State.loadGeometry_curCount (g : Geometry Int) : (s.loadGeometry g).curCount = 0 := by simp only [State.loadGeometry, State.zeroFill_curCount, State.cursorStart_curCount]
@[simp] theorem State.loadGeometry_urf (g : Geometry Int) : (s.loadGeometry g).urf = false := by simp only [State.loadGeometry, State.zeroFill_urf, State.cursorStart_urf]
@[simp] theorem State.loadGeometry_inited (g : Geometry Int) : (s.loadGeometry g).inited = s.inited := by simp only [State.loadGeometry, State.zeroFill_inited, State.cursorStart_inited]
@[simp] theorem State.loadGeometry_en (g : Geometry Int) : (s.loadGeometry g).en = s.en := by simp only [State.loadGeometry, State.zeroFill_en, State.cursorStart_en]
@[simp] theorem State.loadGeometry_geomValid (g : Geometry Int) : (s.loadGeometry g).geomValid = true := by simp only [State.loadGeometry, State.zeroFill_geomValid, State.cursorStart_geomValid]
@[simp] theorem State.loadGeometry_front (g : Geometry Int) : (s.loadGeometry g).front = s.front := by simp only [State.loadGeometry, State.zeroFill_front, State.cursorStart_front]
@[simp] theorem State.loadGeometry_fr (g : Geometry Int) : (s.loadGeometry g).fr = s.fr := by simp only [State.loadGeometry, State.zeroFill_fr, State.cursorStart_fr]
@[simp] theorem State.loadGeometry_ack (g : Geometry Int) : (s.loadGeometry g).ack = s.ack := by simp only [State.loadGeometry, State.zeroFill_ack, State.cursorStart_ack]
@[simp] theorem State.loadGeometry_sync (g : Geometry Int) : (s.loadGeometry g).sync = s.sync := by simp only [State.loadGeometry, State.zeroFill_sync, State.cursorStart_sync]
@[simp] theorem State.loadGeometry_lastb (g : Geometry Int) : (s.loadGeometry g).lastb = s.lastb := by simp only [State.loadGeometry, State.zeroFill_lastb, State.cursorStart_lastb]
@[simp] theorem State.loadGeometry_pend (g : Geometry Int) : (s.loadGeometry g).pend = s.pend := by simp only [State.loadGeometry, State.zeroFill_pend, State.cursorStart_pend]
@[simp] theorem State.loadGeometry_fbValid0 (g : Geometry Int) : (s.loadGeometry g).fbValid0 = s.fbValid0 := by simp only [State.loadGeometry, State.zeroFill_fbValid0, State.cursorStart_fbValid0]
@[simp] theorem State.loadGeometry_fbValid1 (g : Geometry Int) : (s.loadGeometry g).fbValid1 = s.fbValid1 := by simp only [State.loadGeometry, State.zeroFill_fbValid1, State.cursorStart_fbValid1]
@[simp] theorem State.loadGeometry_result (g : Geometry Int) : (s.loadGeometry g).result = s.result := by simp only [State.loadGeometry, State.zeroFill_result, State.cursorStart_result]
@[simp] theorem State.loadGeometry_backlight (g : Geometry Int) : (s.loadGeometry g).backlight = s.backlight := by simp only [State.loadGeometry, State.zeroFill_backlight, State.cursorStart_backlight]
@[simp] theorem State.loadGeometry_rearm (g : Geometry Int) : (s.loadGeometry g).rearm = s.rearm := by simp only [State.loadGeometry, State.zeroFill_rearm, State.cursorStart_rearm]
@[simp] theorem State.loadGeometry_allocOk (g : Geometry Int) : (s.loadGeometry g).allocOk = s.allocOk := by simp only [State.loadGeometry, State.zeroFill_allocOk, State.cursorStart_allocOk]
@[simp] theorem State.loadGeometry_rstIn (g : Geometry Int) : (s.loadGeometry g).rstIn = s.rstIn := by simp only [State.loadGeometry, State.zeroFill_rstIn, State.cursorStart_rstIn]
@[simp] theorem State.loadGeometry_draw (g : Geometry Int) : (s.loadGeometry g).draw = s.draw := by simp only [State.loadGeometry, State.zeroFill_draw, State.cursorStart_draw]
@[simp] theorem State.loadGeometry_schedule (g : Geometry Int) : (s.loadGeometry g).schedule = s.schedule := by simp only [State.loadGeometry, State.zeroFill_schedule, State.cursorStart_schedule]
@[simp] theorem State.loadGeometry_stalled (g : Geometry Int) : (s.loadGeometry g).stalled = s.stalled := by simp only [State.loadGeometry, State.zeroFill_stalled, State.cursorStart_stalled]
@[simp] theorem State.loadGeometry_bus (g : Geometry Int) : (s.loadGeometry g).bus = s.bus := by simp only [State.loadGeometry, State.zeroFill_bus, State.cursorStart_bus]

@[simp] theorem State.beginSession_par (pol : Policy) (w h : BitVec 13) (g : Geometry Int) : (s.beginSession pol w h g).par = s.par := by simp only [State.beginSession, State.loadGeometry_par, State.give_par, State.newFrames_par]
@[simp] theorem State.beginSession_lw (pol : Policy) (w h : BitVec 13) (g : Geometry Int) : (s.beginSession pol w h g).lw = w := by simp only [State.beginSession, State.loadGeometry_lw, State.give_lw, State.newFrames_lw]
@[simp] theorem State.beginSession_lh (pol : Policy) (w h : BitVec 13) (g : Geometry Int) : (s.beginSession pol w h g).lh = h := by simp only [State.beginSession, State.loadGeometry_lh, State.give_lh, State.newFrames_lh]
@[simp] theorem State.beginSession_scale (pol : Policy) (w h : BitVec 13) (g : Geometry Int) : (s.beginSession pol w h g).scale = s.scale := by simp only [State.beginSession, State.loadGeometry_scale, State.give_scale, State.newFrames_scale]
@[simp] theorem State.beginSession_rot (pol : Policy) (w h : BitVec 13) (g : Geometry Int) : (s.beginSession pol w h g).rot = s.rot := by simp only [State.beginSession, State.loadGeometry_rot, State.give_rot, State.newFrames_rot]
@[simp] theorem State.beginSession_policy (pol : Policy) (w h : BitVec 13) (g : Geometry Int) : (s.beginSession pol w h g).policy = pol := by simp only [State.beginSession, State.loadGeometry_policy, State.give_policy, State.newFrames_policy]
@[simp] theorem State.beginSession_geom (pol : Policy) (w h : BitVec 13) (g : Geometry Int) : (s.beginSession pol w h g).geom = g.toRegs := by simp only [State.beginSession, State.loadGeometry_geom]
@[simp] theorem State.beginSession_curSrc (pol : Policy) (w h : BitVec 13) (g : Geometry Int) : (s.beginSession pol w h g).curSrc = g.toRegs.startOffset := by simp only [State.beginSession, State.loadGeometry_curSrc]
@[simp] theorem State.beginSession_curCount (pol : Policy) (w h : BitVec 13) (g : Geometry Int) : (s.beginSession pol w h g).curCount = 0 := by simp only [State.beginSession, State.loadGeometry_curCount]
@[simp] theorem State.beginSession_urf (pol : Policy) (w h : BitVec 13) (g : Geometry Int) : (s.beginSession pol w h g).urf = false := by simp only [State.beginSession, State.loadGeometry_urf]
@[simp] theorem State.beginSession_inited (pol : Policy) (w h : BitVec 13) (g : Geometry Int) : (s.beginSession pol w h g).inited = true := rfl
@[simp] theorem State.beginSession_en (pol : Policy) (w h : BitVec 13) (g : Geometry Int) : (s.beginSession pol w h g).en = s.en := by simp only [State.beginSession, State.loadGeometry_en, State.give_en, State.newFrames_en]
@[simp] theorem State.beginSession_geomValid (pol : Policy) (w h : BitVec 13) (g : Geometry Int) : (s.beginSession pol w h g).geomValid = true := by simp only [State.beginSession, State.loadGeometry_geomValid]
@[simp] theorem State.beginSession_front (pol : Policy) (w h : BitVec 13) (g : Geometry Int) : (s.beginSession pol w h g).front = false := by simp only [State.beginSession, State.loadGeometry_front, State.give_front]
@[simp] theorem State.beginSession_fr (pol : Policy) (w h : BitVec 13) (g : Geometry Int) : (s.beginSession pol w h g).fr = true := by simp only [State.beginSession, State.loadGeometry_fr, State.give_fr_fr, State.give_ack_fr]
@[simp] theorem State.beginSession_ack (pol : Policy) (w h : BitVec 13) (g : Geometry Int) : (s.beginSession pol w h g).ack = true := by simp only [State.beginSession, State.loadGeometry_ack, State.give_ack_ack]
@[simp] theorem State.beginSession_sync (pol : Policy) (w h : BitVec 13) (g : Geometry Int) : (s.beginSession pol w h g).sync = s.sync := by simp only [State.beginSession, State.loadGeometry_sync, State.give_sync, State.newFrames_sync]
@[simp] theorem State.beginSession_lastb (pol : Policy) (w h : BitVec 13) (g : Geometry Int) : (s.beginSession pol w h g).lastb = .none := by simp only [State.beginSession, State.loadGeometry_lastb, State.give_lastb]
@[simp] theorem State.beginSession_pend (pol : Policy) (w h : BitVec 13) (g : Geometry Int) : (s.beginSession pol w h g).pend = s.pend := by simp only [State.beginSession, State.loadGeometry_pend, State.give_pend, State.newFrames_pend]
@[simp] theorem State.beginSession_fbValid0 (pol : Policy) (w h : BitVec 13) (g : Geometry Int) : (s.beginSession pol w h g).fbValid0 = true := by simp only [State.beginSession, State.loadGeometry_fbValid0, State.give_fbValid0]
@[simp] theorem State.beginSession_fbValid1 (pol : Policy) (w h : BitVec 13) (g : Geometry Int) : (s.beginSession pol w h g).fbValid1 = true := by simp only [State.beginSession, State.loadGeometry_fbValid1, State.give_fbValid1]
@[simp] theorem State.beginSession_result (pol : Policy) (w h : BitVec 13) (g : Geometry Int) : (s.beginSession pol w h g).result = s.result := by simp only [State.beginSession, State.loadGeometry_result, State.give_result, State.newFrames_result]
@[simp] theorem State.beginSession_backlight (pol : Policy) (w h : BitVec 13) (g : Geometry Int) : (s.beginSession pol w h g).backlight = s.backlight := by simp only [State.beginSession, State.loadGeometry_backlight, State.give_backlight, State.newFrames_backlight]
@[simp] theorem State.beginSession_rearm (pol : Policy) (w h : BitVec 13) (g : Geometry Int) : (s.beginSession pol w h g).rearm = s.rearm := by simp only [State.beginSession, State.loadGeometry_rearm, State.give_rearm, State.newFrames_rearm]
@[simp] theorem State.beginSession_allocOk (pol : Policy) (w h : BitVec 13) (g : Geometry Int) : (s.beginSession pol w h g).allocOk = s.allocOk := by simp only [State.beginSession, State.loadGeometry_allocOk, State.give_allocOk, State.newFrames_allocOk]
@[simp] theorem State.beginSession_rstIn (pol : Policy) (w h : BitVec 13) (g : Geometry Int) : (s.beginSession pol w h g).rstIn = s.rstIn := by simp only [State.beginSession, State.loadGeometry_rstIn, State.give_rstIn, State.newFrames_rstIn]
@[simp] theorem State.beginSession_draw (pol : Policy) (w h : BitVec 13) (g : Geometry Int) : (s.beginSession pol w h g).draw = s.draw + 1 := by simp only [State.beginSession, State.loadGeometry_draw, State.give_draw, State.newFrames_draw]
@[simp] theorem State.beginSession_schedule (pol : Policy) (w h : BitVec 13) (g : Geometry Int) : (s.beginSession pol w h g).schedule = s.schedule := by simp only [State.beginSession, State.loadGeometry_schedule, State.give_schedule, State.newFrames_schedule]
@[simp] theorem State.beginSession_stalled (pol : Policy) (w h : BitVec 13) (g : Geometry Int) : (s.beginSession pol w h g).stalled = s.stalled := by simp only [State.beginSession, State.loadGeometry_stalled, State.give_stalled, State.newFrames_stalled]
@[simp] theorem State.beginSession_bus (pol : Policy) (w h : BitVec 13) (g : Geometry Int) : (s.beginSession pol w h g).bus = s.bus := by simp only [State.beginSession, State.loadGeometry_bus, State.give_bus, State.newFrames_bus]

@[simp] theorem State.assertReset_par : (s.assertReset).par = s.par := rfl
@[simp] theorem State.assertReset_lw : (s.assertReset).lw = 0 := rfl
@[simp] theorem State.assertReset_lh : (s.assertReset).lh = 0 := rfl
@[simp] theorem State.assertReset_scale : (s.assertReset).scale = 1 := rfl
@[simp] theorem State.assertReset_rot : (s.assertReset).rot = false := rfl
@[simp] theorem State.assertReset_policy : (s.assertReset).policy = .throughput := rfl
@[simp] theorem State.assertReset_geom : (s.assertReset).geom = Geometry.zero := rfl
@[simp] theorem State.assertReset_curSrc : (s.assertReset).curSrc = 0 := rfl
@[simp] theorem State.assertReset_curCount : (s.assertReset).curCount = 0 := rfl
@[simp] theorem State.assertReset_urf : (s.assertReset).urf = false := rfl
@[simp] theorem State.assertReset_inited : (s.assertReset).inited = false := rfl
@[simp] theorem State.assertReset_en : (s.assertReset).en = false := rfl
@[simp] theorem State.assertReset_geomValid : (s.assertReset).geomValid = false := rfl
@[simp] theorem State.assertReset_front : (s.assertReset).front = false := rfl
@[simp] theorem State.assertReset_fr : (s.assertReset).fr = false := rfl
@[simp] theorem State.assertReset_ack : (s.assertReset).ack = false := rfl
@[simp] theorem State.assertReset_sync : (s.assertReset).sync = .scanning := rfl
@[simp] theorem State.assertReset_lastb : (s.assertReset).lastb = .none := rfl
@[simp] theorem State.assertReset_pend : (s.assertReset).pend = .none := rfl
@[simp] theorem State.assertReset_fbValid0 : (s.assertReset).fbValid0 = false := rfl
@[simp] theorem State.assertReset_fbValid1 : (s.assertReset).fbValid1 = false := rfl
@[simp] theorem State.assertReset_result : (s.assertReset).result = ⟨.ok, false⟩ := rfl
@[simp] theorem State.assertReset_backlight : (s.assertReset).backlight = 0 := rfl
@[simp] theorem State.assertReset_rearm : (s.assertReset).rearm = false := rfl
@[simp] theorem State.assertReset_mem : (s.assertReset).mem = s.mem := rfl
@[simp] theorem State.assertReset_lbEng : (s.assertReset).lbEng = s.lbEng := rfl
@[simp] theorem State.assertReset_allocOk : (s.assertReset).allocOk = true := rfl
@[simp] theorem State.assertReset_rstIn : (s.assertReset).rstIn = true := rfl
@[simp] theorem State.assertReset_draw : (s.assertReset).draw = s.draw + 1 := rfl
@[simp] theorem State.assertReset_schedule : (s.assertReset).schedule = s.schedule := rfl
@[simp] theorem State.assertReset_stalled : (s.assertReset).stalled = [] := rfl
@[simp] theorem State.assertReset_bus : (s.assertReset).bus = 0 := rfl

@[simp] theorem State.signalReady_par : (s.signalReady).par = s.par := rfl
@[simp] theorem State.signalReady_lw : (s.signalReady).lw = s.lw := rfl
@[simp] theorem State.signalReady_lh : (s.signalReady).lh = s.lh := rfl
@[simp] theorem State.signalReady_scale : (s.signalReady).scale = s.scale := rfl
@[simp] theorem State.signalReady_rot : (s.signalReady).rot = s.rot := rfl
@[simp] theorem State.signalReady_policy : (s.signalReady).policy = s.policy := rfl
@[simp] theorem State.signalReady_geom : (s.signalReady).geom = s.geom := rfl
@[simp] theorem State.signalReady_curSrc : (s.signalReady).curSrc = s.curSrc := rfl
@[simp] theorem State.signalReady_curCount : (s.signalReady).curCount = s.curCount := rfl
@[simp] theorem State.signalReady_urf : (s.signalReady).urf = s.urf := rfl
@[simp] theorem State.signalReady_inited : (s.signalReady).inited = s.inited := rfl
@[simp] theorem State.signalReady_en : (s.signalReady).en = s.en := rfl
@[simp] theorem State.signalReady_geomValid : (s.signalReady).geomValid = s.geomValid := rfl
@[simp] theorem State.signalReady_front : (s.signalReady).front = s.front := rfl
@[simp] theorem State.signalReady_fr : (s.signalReady).fr = true := rfl
@[simp] theorem State.signalReady_ack : (s.signalReady).ack = s.ack := rfl
@[simp] theorem State.signalReady_sync : (s.signalReady).sync = .signalReady := rfl
@[simp] theorem State.signalReady_lastb : (s.signalReady).lastb = .signalReady := rfl
@[simp] theorem State.signalReady_pend : (s.signalReady).pend = s.pend := rfl
@[simp] theorem State.signalReady_fbValid0 : (s.signalReady).fbValid0 = s.fbValid0 := rfl
@[simp] theorem State.signalReady_fbValid1 : (s.signalReady).fbValid1 = s.fbValid1 := rfl
@[simp] theorem State.signalReady_result : (s.signalReady).result = s.result := rfl
@[simp] theorem State.signalReady_backlight : (s.signalReady).backlight = s.backlight := rfl
@[simp] theorem State.signalReady_rearm : (s.signalReady).rearm = s.rearm := rfl
@[simp] theorem State.signalReady_mem : (s.signalReady).mem = s.mem := rfl
@[simp] theorem State.signalReady_lbEng : (s.signalReady).lbEng = s.lbEng := rfl
@[simp] theorem State.signalReady_allocOk : (s.signalReady).allocOk = s.allocOk := rfl
@[simp] theorem State.signalReady_rstIn : (s.signalReady).rstIn = s.rstIn := rfl
@[simp] theorem State.signalReady_draw : (s.signalReady).draw = s.draw := rfl
@[simp] theorem State.signalReady_schedule : (s.signalReady).schedule = s.schedule := rfl
@[simp] theorem State.signalReady_stalled : (s.signalReady).stalled = s.stalled := rfl
@[simp] theorem State.signalReady_bus : (s.signalReady).bus = s.bus := rfl

@[simp] theorem State.holdFrame_par : (s.holdFrame).par = s.par := rfl
@[simp] theorem State.holdFrame_lw : (s.holdFrame).lw = s.lw := rfl
@[simp] theorem State.holdFrame_lh : (s.holdFrame).lh = s.lh := rfl
@[simp] theorem State.holdFrame_scale : (s.holdFrame).scale = s.scale := rfl
@[simp] theorem State.holdFrame_rot : (s.holdFrame).rot = s.rot := rfl
@[simp] theorem State.holdFrame_policy : (s.holdFrame).policy = s.policy := rfl
@[simp] theorem State.holdFrame_geom : (s.holdFrame).geom = s.geom := rfl
@[simp] theorem State.holdFrame_curSrc : (s.holdFrame).curSrc = s.curSrc := rfl
@[simp] theorem State.holdFrame_curCount : (s.holdFrame).curCount = s.curCount := rfl
@[simp] theorem State.holdFrame_urf : (s.holdFrame).urf = s.urf := rfl
@[simp] theorem State.holdFrame_inited : (s.holdFrame).inited = s.inited := rfl
@[simp] theorem State.holdFrame_en : (s.holdFrame).en = s.en := rfl
@[simp] theorem State.holdFrame_geomValid : (s.holdFrame).geomValid = s.geomValid := rfl
@[simp] theorem State.holdFrame_front : (s.holdFrame).front = s.front := rfl
@[simp] theorem State.holdFrame_fr : (s.holdFrame).fr = s.fr := rfl
@[simp] theorem State.holdFrame_ack : (s.holdFrame).ack = s.ack := rfl
@[simp] theorem State.holdFrame_sync : (s.holdFrame).sync = .hold := rfl
@[simp] theorem State.holdFrame_lastb : (s.holdFrame).lastb = .hold := rfl
@[simp] theorem State.holdFrame_pend : (s.holdFrame).pend = s.pend := rfl
@[simp] theorem State.holdFrame_fbValid0 : (s.holdFrame).fbValid0 = s.fbValid0 := rfl
@[simp] theorem State.holdFrame_fbValid1 : (s.holdFrame).fbValid1 = s.fbValid1 := rfl
@[simp] theorem State.holdFrame_result : (s.holdFrame).result = s.result := rfl
@[simp] theorem State.holdFrame_backlight : (s.holdFrame).backlight = s.backlight := rfl
@[simp] theorem State.holdFrame_rearm : (s.holdFrame).rearm = s.rearm := rfl
@[simp] theorem State.holdFrame_mem : (s.holdFrame).mem = s.mem := rfl
@[simp] theorem State.holdFrame_lbEng : (s.holdFrame).lbEng = s.lbEng := rfl
@[simp] theorem State.holdFrame_allocOk : (s.holdFrame).allocOk = s.allocOk := rfl
@[simp] theorem State.holdFrame_rstIn : (s.holdFrame).rstIn = s.rstIn := rfl
@[simp] theorem State.holdFrame_draw : (s.holdFrame).draw = s.draw := rfl
@[simp] theorem State.holdFrame_schedule : (s.holdFrame).schedule = s.schedule := rfl
@[simp] theorem State.holdFrame_stalled : (s.holdFrame).stalled = s.stalled := rfl
@[simp] theorem State.holdFrame_bus : (s.holdFrame).bus = s.bus := rfl

@[simp] theorem State.recoverUnderrun_par (ur : Bool) : (s.recoverUnderrun ur).par = s.par := by cases ur <;> rfl
@[simp] theorem State.recoverUnderrun_lw (ur : Bool) : (s.recoverUnderrun ur).lw = s.lw := by cases ur <;> rfl
@[simp] theorem State.recoverUnderrun_lh (ur : Bool) : (s.recoverUnderrun ur).lh = s.lh := by cases ur <;> rfl
@[simp] theorem State.recoverUnderrun_scale (ur : Bool) : (s.recoverUnderrun ur).scale = s.scale := by cases ur <;> rfl
@[simp] theorem State.recoverUnderrun_rot (ur : Bool) : (s.recoverUnderrun ur).rot = s.rot := by cases ur <;> rfl
@[simp] theorem State.recoverUnderrun_policy (ur : Bool) : (s.recoverUnderrun ur).policy = s.policy := by cases ur <;> rfl
@[simp] theorem State.recoverUnderrun_geom (ur : Bool) : (s.recoverUnderrun ur).geom = s.geom := by cases ur <;> rfl
@[simp] theorem State.recoverUnderrun_curSrc (ur : Bool) : (s.recoverUnderrun ur).curSrc = (if ur then s.geom.startOffset + s.geom.increment else s.curSrc) := by cases ur <;> rfl
@[simp] theorem State.recoverUnderrun_curCount (ur : Bool) : (s.recoverUnderrun ur).curCount = (if ur then 1 else s.curCount) := by cases ur <;> rfl
@[simp] theorem State.recoverUnderrun_urf (ur : Bool) : (s.recoverUnderrun ur).urf = (ur || s.urf) := by cases ur <;> rfl
@[simp] theorem State.recoverUnderrun_inited (ur : Bool) : (s.recoverUnderrun ur).inited = s.inited := by cases ur <;> rfl
@[simp] theorem State.recoverUnderrun_en (ur : Bool) : (s.recoverUnderrun ur).en = s.en := by cases ur <;> rfl
@[simp] theorem State.recoverUnderrun_geomValid (ur : Bool) : (s.recoverUnderrun ur).geomValid = s.geomValid := by cases ur <;> rfl
@[simp] theorem State.recoverUnderrun_front (ur : Bool) : (s.recoverUnderrun ur).front = s.front := by cases ur <;> rfl
@[simp] theorem State.recoverUnderrun_fr (ur : Bool) : (s.recoverUnderrun ur).fr = s.fr := by cases ur <;> rfl
@[simp] theorem State.recoverUnderrun_ack (ur : Bool) : (s.recoverUnderrun ur).ack = s.ack := by cases ur <;> rfl
@[simp] theorem State.recoverUnderrun_sync (ur : Bool) : (s.recoverUnderrun ur).sync = s.sync := by cases ur <;> rfl
@[simp] theorem State.recoverUnderrun_lastb (ur : Bool) : (s.recoverUnderrun ur).lastb = s.lastb := by cases ur <;> rfl
@[simp] theorem State.recoverUnderrun_pend (ur : Bool) : (s.recoverUnderrun ur).pend = s.pend := by cases ur <;> rfl
@[simp] theorem State.recoverUnderrun_fbValid0 (ur : Bool) : (s.recoverUnderrun ur).fbValid0 = s.fbValid0 := by cases ur <;> rfl
@[simp] theorem State.recoverUnderrun_fbValid1 (ur : Bool) : (s.recoverUnderrun ur).fbValid1 = s.fbValid1 := by cases ur <;> rfl
@[simp] theorem State.recoverUnderrun_result (ur : Bool) : (s.recoverUnderrun ur).result = s.result := by cases ur <;> rfl
@[simp] theorem State.recoverUnderrun_backlight (ur : Bool) : (s.recoverUnderrun ur).backlight = s.backlight := by cases ur <;> rfl
@[simp] theorem State.recoverUnderrun_rearm (ur : Bool) : (s.recoverUnderrun ur).rearm = s.rearm := by cases ur <;> rfl
@[simp] theorem State.recoverUnderrun_mem (ur : Bool) : (s.recoverUnderrun ur).mem = s.mem := by cases ur <;> rfl
@[simp] theorem State.recoverUnderrun_lbEng (ur : Bool) : (s.recoverUnderrun ur).lbEng = s.lbEng := by cases ur <;> rfl
@[simp] theorem State.recoverUnderrun_allocOk (ur : Bool) : (s.recoverUnderrun ur).allocOk = s.allocOk := by cases ur <;> rfl
@[simp] theorem State.recoverUnderrun_rstIn (ur : Bool) : (s.recoverUnderrun ur).rstIn = s.rstIn := by cases ur <;> rfl
@[simp] theorem State.recoverUnderrun_draw (ur : Bool) : (s.recoverUnderrun ur).draw = s.draw := by cases ur <;> rfl
@[simp] theorem State.recoverUnderrun_schedule (ur : Bool) : (s.recoverUnderrun ur).schedule = s.schedule := by cases ur <;> rfl
@[simp] theorem State.recoverUnderrun_stalled (ur : Bool) : (s.recoverUnderrun ur).stalled = s.stalled := by cases ur <;> rfl
@[simp] theorem State.recoverUnderrun_bus (ur : Bool) : (s.recoverUnderrun ur).bus = s.bus := by cases ur <;> rfl

@[simp] theorem State.produceLine_par (b : Bool) : (s.produceLine b).par = s.par := by unfold State.produceLine; split <;> simp only [State.lineWrite_par, State.blankLine_par]
@[simp] theorem State.produceLine_lw (b : Bool) : (s.produceLine b).lw = s.lw := by unfold State.produceLine; split <;> simp only [State.lineWrite_lw, State.blankLine_lw]
@[simp] theorem State.produceLine_lh (b : Bool) : (s.produceLine b).lh = s.lh := by unfold State.produceLine; split <;> simp only [State.lineWrite_lh, State.blankLine_lh]
@[simp] theorem State.produceLine_scale (b : Bool) : (s.produceLine b).scale = s.scale := by unfold State.produceLine; split <;> simp only [State.lineWrite_scale, State.blankLine_scale]
@[simp] theorem State.produceLine_rot (b : Bool) : (s.produceLine b).rot = s.rot := by unfold State.produceLine; split <;> simp only [State.lineWrite_rot, State.blankLine_rot]
@[simp] theorem State.produceLine_policy (b : Bool) : (s.produceLine b).policy = s.policy := by unfold State.produceLine; split <;> simp only [State.lineWrite_policy, State.blankLine_policy]
@[simp] theorem State.produceLine_geom (b : Bool) : (s.produceLine b).geom = s.geom := by unfold State.produceLine; split <;> simp only [State.lineWrite_geom, State.blankLine_geom]
@[simp] theorem State.produceLine_curSrc (b : Bool) : (s.produceLine b).curSrc = s.curSrc := by unfold State.produceLine; split <;> simp only [State.lineWrite_curSrc, State.blankLine_curSrc]
@[simp] theorem State.produceLine_curCount (b : Bool) : (s.produceLine b).curCount = s.curCount := by unfold State.produceLine; split <;> simp only [State.lineWrite_curCount, State.blankLine_curCount]
@[simp] theorem State.produceLine_urf (b : Bool) : (s.produceLine b).urf = s.urf := by unfold State.produceLine; split <;> simp only [State.lineWrite_urf, State.blankLine_urf]
@[simp] theorem State.produceLine_inited (b : Bool) : (s.produceLine b).inited = s.inited := by unfold State.produceLine; split <;> simp only [State.lineWrite_inited, State.blankLine_inited]
@[simp] theorem State.produceLine_en (b : Bool) : (s.produceLine b).en = s.en := by unfold State.produceLine; split <;> simp only [State.lineWrite_en, State.blankLine_en]
@[simp] theorem State.produceLine_geomValid (b : Bool) : (s.produceLine b).geomValid = s.geomValid := by unfold State.produceLine; split <;> simp only [State.lineWrite_geomValid, State.blankLine_geomValid]
@[simp] theorem State.produceLine_front (b : Bool) : (s.produceLine b).front = s.front := by unfold State.produceLine; split <;> simp only [State.lineWrite_front, State.blankLine_front]
@[simp] theorem State.produceLine_fr (b : Bool) : (s.produceLine b).fr = s.fr := by unfold State.produceLine; split <;> simp only [State.lineWrite_fr, State.blankLine_fr]
@[simp] theorem State.produceLine_ack (b : Bool) : (s.produceLine b).ack = s.ack := by unfold State.produceLine; split <;> simp only [State.lineWrite_ack, State.blankLine_ack]
@[simp] theorem State.produceLine_sync (b : Bool) : (s.produceLine b).sync = s.sync := by unfold State.produceLine; split <;> simp only [State.lineWrite_sync, State.blankLine_sync]
@[simp] theorem State.produceLine_lastb (b : Bool) : (s.produceLine b).lastb = s.lastb := by unfold State.produceLine; split <;> simp only [State.lineWrite_lastb, State.blankLine_lastb]
@[simp] theorem State.produceLine_pend (b : Bool) : (s.produceLine b).pend = s.pend := by unfold State.produceLine; split <;> simp only [State.lineWrite_pend, State.blankLine_pend]
@[simp] theorem State.produceLine_fbValid0 (b : Bool) : (s.produceLine b).fbValid0 = s.fbValid0 := by unfold State.produceLine; split <;> simp only [State.lineWrite_fbValid0, State.blankLine_fbValid0]
@[simp] theorem State.produceLine_fbValid1 (b : Bool) : (s.produceLine b).fbValid1 = s.fbValid1 := by unfold State.produceLine; split <;> simp only [State.lineWrite_fbValid1, State.blankLine_fbValid1]
@[simp] theorem State.produceLine_result (b : Bool) : (s.produceLine b).result = s.result := by unfold State.produceLine; split <;> simp only [State.lineWrite_result, State.blankLine_result]
@[simp] theorem State.produceLine_backlight (b : Bool) : (s.produceLine b).backlight = s.backlight := by unfold State.produceLine; split <;> simp only [State.lineWrite_backlight, State.blankLine_backlight]
@[simp] theorem State.produceLine_rearm (b : Bool) : (s.produceLine b).rearm = s.rearm := by unfold State.produceLine; split <;> simp only [State.lineWrite_rearm, State.blankLine_rearm]
@[simp] theorem State.produceLine_allocOk (b : Bool) : (s.produceLine b).allocOk = s.allocOk := by unfold State.produceLine; split <;> simp only [State.lineWrite_allocOk, State.blankLine_allocOk]
@[simp] theorem State.produceLine_rstIn (b : Bool) : (s.produceLine b).rstIn = s.rstIn := by unfold State.produceLine; split <;> simp only [State.lineWrite_rstIn, State.blankLine_rstIn]
@[simp] theorem State.produceLine_draw (b : Bool) : (s.produceLine b).draw = s.draw := by unfold State.produceLine; split <;> simp only [State.lineWrite_draw, State.blankLine_draw]
@[simp] theorem State.produceLine_schedule (b : Bool) : (s.produceLine b).schedule = s.schedule := by unfold State.produceLine; split <;> simp only [State.lineWrite_schedule, State.blankLine_schedule]
@[simp] theorem State.produceLine_stalled (b : Bool) : (s.produceLine b).stalled = s.stalled := by unfold State.produceLine; split <;> simp only [State.lineWrite_stalled, State.blankLine_stalled]
@[simp] theorem State.produceLine_bus (b : Bool) : (s.produceLine b).bus = s.bus := by unfold State.produceLine; split <;> simp only [State.lineWrite_bus, State.blankLine_bus]

@[simp] theorem State.advanceCursor_par : (s.advanceCursor).par = s.par := rfl
@[simp] theorem State.advanceCursor_lw : (s.advanceCursor).lw = s.lw := rfl
@[simp] theorem State.advanceCursor_lh : (s.advanceCursor).lh = s.lh := rfl
@[simp] theorem State.advanceCursor_scale : (s.advanceCursor).scale = s.scale := rfl
@[simp] theorem State.advanceCursor_rot : (s.advanceCursor).rot = s.rot := rfl
@[simp] theorem State.advanceCursor_policy : (s.advanceCursor).policy = s.policy := rfl
@[simp] theorem State.advanceCursor_geom : (s.advanceCursor).geom = s.geom := rfl
@[simp] theorem State.advanceCursor_curSrc : (s.advanceCursor).curSrc = s.curSrc + s.geom.increment := rfl
@[simp] theorem State.advanceCursor_curCount : (s.advanceCursor).curCount = s.curCount + 1 := rfl
@[simp] theorem State.advanceCursor_urf : (s.advanceCursor).urf = s.urf := rfl
@[simp] theorem State.advanceCursor_inited : (s.advanceCursor).inited = s.inited := rfl
@[simp] theorem State.advanceCursor_en : (s.advanceCursor).en = s.en := rfl
@[simp] theorem State.advanceCursor_geomValid : (s.advanceCursor).geomValid = s.geomValid := rfl
@[simp] theorem State.advanceCursor_front : (s.advanceCursor).front = s.front := rfl
@[simp] theorem State.advanceCursor_fr : (s.advanceCursor).fr = s.fr := rfl
@[simp] theorem State.advanceCursor_ack : (s.advanceCursor).ack = s.ack := rfl
@[simp] theorem State.advanceCursor_sync : (s.advanceCursor).sync = s.sync := rfl
@[simp] theorem State.advanceCursor_lastb : (s.advanceCursor).lastb = s.lastb := rfl
@[simp] theorem State.advanceCursor_pend : (s.advanceCursor).pend = s.pend := rfl
@[simp] theorem State.advanceCursor_fbValid0 : (s.advanceCursor).fbValid0 = s.fbValid0 := rfl
@[simp] theorem State.advanceCursor_fbValid1 : (s.advanceCursor).fbValid1 = s.fbValid1 := rfl
@[simp] theorem State.advanceCursor_result : (s.advanceCursor).result = s.result := rfl
@[simp] theorem State.advanceCursor_backlight : (s.advanceCursor).backlight = s.backlight := rfl
@[simp] theorem State.advanceCursor_rearm : (s.advanceCursor).rearm = s.rearm := rfl
@[simp] theorem State.advanceCursor_mem : (s.advanceCursor).mem = s.mem := rfl
@[simp] theorem State.advanceCursor_lbEng : (s.advanceCursor).lbEng = s.lbEng := rfl
@[simp] theorem State.advanceCursor_allocOk : (s.advanceCursor).allocOk = s.allocOk := rfl
@[simp] theorem State.advanceCursor_rstIn : (s.advanceCursor).rstIn = s.rstIn := rfl
@[simp] theorem State.advanceCursor_draw : (s.advanceCursor).draw = s.draw := rfl
@[simp] theorem State.advanceCursor_schedule : (s.advanceCursor).schedule = s.schedule := rfl
@[simp] theorem State.advanceCursor_stalled : (s.advanceCursor).stalled = s.stalled := rfl
@[simp] theorem State.advanceCursor_bus : (s.advanceCursor).bus = s.bus := rfl

@[simp] theorem State.frameBoundary_par : (s.frameBoundary).par = s.par := by cases hp : s.policy <;> cases ha : s.ack <;> simp [State.frameBoundary, State.applyPolicy, State.take, State.available, hp, ha]
@[simp] theorem State.frameBoundary_lw : (s.frameBoundary).lw = s.lw := by cases hp : s.policy <;> cases ha : s.ack <;> simp [State.frameBoundary, State.applyPolicy, State.take, State.available, hp, ha]
@[simp] theorem State.frameBoundary_lh : (s.frameBoundary).lh = s.lh := by cases hp : s.policy <;> cases ha : s.ack <;> simp [State.frameBoundary, State.applyPolicy, State.take, State.available, hp, ha]
@[simp] theorem State.frameBoundary_scale : (s.frameBoundary).scale = s.scale := by cases hp : s.policy <;> cases ha : s.ack <;> simp [State.frameBoundary, State.applyPolicy, State.take, State.available, hp, ha]
@[simp] theorem State.frameBoundary_rot : (s.frameBoundary).rot = s.rot := by cases hp : s.policy <;> cases ha : s.ack <;> simp [State.frameBoundary, State.applyPolicy, State.take, State.available, hp, ha]
@[simp] theorem State.frameBoundary_policy : (s.frameBoundary).policy = s.policy := by cases hp : s.policy <;> cases ha : s.ack <;> simp [State.frameBoundary, State.applyPolicy, State.take, State.available, hp, ha]
@[simp] theorem State.frameBoundary_geom : (s.frameBoundary).geom = s.geom := by cases hp : s.policy <;> cases ha : s.ack <;> simp [State.frameBoundary, State.applyPolicy, State.take, State.available, hp, ha]
@[simp] theorem State.frameBoundary_curSrc : (s.frameBoundary).curSrc = s.geom.startOffset := by cases hp : s.policy <;> cases ha : s.ack <;> simp [State.frameBoundary, State.applyPolicy, State.take, State.available, hp, ha]
@[simp] theorem State.frameBoundary_curCount : (s.frameBoundary).curCount = 0 := by cases hp : s.policy <;> cases ha : s.ack <;> simp [State.frameBoundary, State.applyPolicy, State.take, State.available, hp, ha]
@[simp] theorem State.frameBoundary_urf : (s.frameBoundary).urf = false := by cases hp : s.policy <;> cases ha : s.ack <;> simp [State.frameBoundary, State.applyPolicy, State.take, State.available, hp, ha]
@[simp] theorem State.frameBoundary_inited : (s.frameBoundary).inited = s.inited := by cases hp : s.policy <;> cases ha : s.ack <;> simp [State.frameBoundary, State.applyPolicy, State.take, State.available, hp, ha]
@[simp] theorem State.frameBoundary_en : (s.frameBoundary).en = s.en := by cases hp : s.policy <;> cases ha : s.ack <;> simp [State.frameBoundary, State.applyPolicy, State.take, State.available, hp, ha]
@[simp] theorem State.frameBoundary_geomValid : (s.frameBoundary).geomValid = s.geomValid := by cases hp : s.policy <;> cases ha : s.ack <;> simp [State.frameBoundary, State.applyPolicy, State.take, State.available, hp, ha]
@[simp] theorem State.frameBoundary_front : (s.frameBoundary).front = s.front := by cases hp : s.policy <;> cases ha : s.ack <;> simp [State.frameBoundary, State.applyPolicy, State.take, State.available, hp, ha]
@[simp] theorem State.frameBoundary_fr : (s.frameBoundary).fr = (s.fr || (decide (s.policy = .throughput) || s.ack)) := by cases hp : s.policy <;> cases ha : s.ack <;> simp [State.frameBoundary, State.applyPolicy, State.take, State.available, hp, ha]
@[simp] theorem State.frameBoundary_ack : (s.frameBoundary).ack = (s.ack && decide (s.policy = .throughput)) := by cases hp : s.policy <;> cases ha : s.ack <;> simp [State.frameBoundary, State.applyPolicy, State.take, State.available, hp, ha]
@[simp] theorem State.frameBoundary_sync : (s.frameBoundary).sync = .scanning := by cases hp : s.policy <;> cases ha : s.ack <;> simp [State.frameBoundary, State.applyPolicy, State.take, State.available, hp, ha]
@[simp] theorem State.frameBoundary_lastb : (s.frameBoundary).lastb = (if s.policy = .throughput ∨ s.ack = true then .signalReady else .hold) := by cases hp : s.policy <;> cases ha : s.ack <;> simp [State.frameBoundary, State.applyPolicy, State.take, State.available, hp, ha]
@[simp] theorem State.frameBoundary_pend : (s.frameBoundary).pend = s.pend := by cases hp : s.policy <;> cases ha : s.ack <;> simp [State.frameBoundary, State.applyPolicy, State.take, State.available, hp, ha]
@[simp] theorem State.frameBoundary_fbValid0 : (s.frameBoundary).fbValid0 = s.fbValid0 := by cases hp : s.policy <;> cases ha : s.ack <;> simp [State.frameBoundary, State.applyPolicy, State.take, State.available, hp, ha]
@[simp] theorem State.frameBoundary_fbValid1 : (s.frameBoundary).fbValid1 = s.fbValid1 := by cases hp : s.policy <;> cases ha : s.ack <;> simp [State.frameBoundary, State.applyPolicy, State.take, State.available, hp, ha]
@[simp] theorem State.frameBoundary_result : (s.frameBoundary).result = s.result := by cases hp : s.policy <;> cases ha : s.ack <;> simp [State.frameBoundary, State.applyPolicy, State.take, State.available, hp, ha]
@[simp] theorem State.frameBoundary_backlight : (s.frameBoundary).backlight = s.backlight := by cases hp : s.policy <;> cases ha : s.ack <;> simp [State.frameBoundary, State.applyPolicy, State.take, State.available, hp, ha]
@[simp] theorem State.frameBoundary_rearm : (s.frameBoundary).rearm = s.rearm := by cases hp : s.policy <;> cases ha : s.ack <;> simp [State.frameBoundary, State.applyPolicy, State.take, State.available, hp, ha]
@[simp] theorem State.frameBoundary_mem : (s.frameBoundary).mem = s.mem := by cases hp : s.policy <;> cases ha : s.ack <;> simp [State.frameBoundary, State.applyPolicy, State.take, State.available, hp, ha]
@[simp] theorem State.frameBoundary_lbEng : (s.frameBoundary).lbEng = s.lbEng := by cases hp : s.policy <;> cases ha : s.ack <;> simp [State.frameBoundary, State.applyPolicy, State.take, State.available, hp, ha]
@[simp] theorem State.frameBoundary_allocOk : (s.frameBoundary).allocOk = s.allocOk := by cases hp : s.policy <;> cases ha : s.ack <;> simp [State.frameBoundary, State.applyPolicy, State.take, State.available, hp, ha]
@[simp] theorem State.frameBoundary_rstIn : (s.frameBoundary).rstIn = s.rstIn := by cases hp : s.policy <;> cases ha : s.ack <;> simp [State.frameBoundary, State.applyPolicy, State.take, State.available, hp, ha]
@[simp] theorem State.frameBoundary_draw : (s.frameBoundary).draw = s.draw := by cases hp : s.policy <;> cases ha : s.ack <;> simp [State.frameBoundary, State.applyPolicy, State.take, State.available, hp, ha]
@[simp] theorem State.frameBoundary_schedule : (s.frameBoundary).schedule = s.schedule := by cases hp : s.policy <;> cases ha : s.ack <;> simp [State.frameBoundary, State.applyPolicy, State.take, State.available, hp, ha]
@[simp] theorem State.frameBoundary_stalled : (s.frameBoundary).stalled = s.stalled := by cases hp : s.policy <;> cases ha : s.ack <;> simp [State.frameBoundary, State.applyPolicy, State.take, State.available, hp, ha]
@[simp] theorem State.frameBoundary_bus : (s.frameBoundary).bus = s.bus := by cases hp : s.policy <;> cases ha : s.ack <;> simp [State.frameBoundary, State.applyPolicy, State.take, State.available, hp, ha]

@[simp] theorem State.endOfFrame_par : (s.endOfFrame).par = s.par := by unfold State.endOfFrame; split <;> simp
@[simp] theorem State.endOfFrame_lw : (s.endOfFrame).lw = s.lw := by unfold State.endOfFrame; split <;> simp
@[simp] theorem State.endOfFrame_lh : (s.endOfFrame).lh = s.lh := by unfold State.endOfFrame; split <;> simp
@[simp] theorem State.endOfFrame_scale : (s.endOfFrame).scale = s.scale := by unfold State.endOfFrame; split <;> simp
@[simp] theorem State.endOfFrame_rot : (s.endOfFrame).rot = s.rot := by unfold State.endOfFrame; split <;> simp
@[simp] theorem State.endOfFrame_policy : (s.endOfFrame).policy = s.policy := by unfold State.endOfFrame; split <;> simp
@[simp] theorem State.endOfFrame_geom : (s.endOfFrame).geom = s.geom := by unfold State.endOfFrame; split <;> simp
@[simp] theorem State.endOfFrame_curSrc : (s.endOfFrame).curSrc = (if s.frameDone then s.geom.startOffset else s.curSrc) := by unfold State.endOfFrame; split <;> simp
@[simp] theorem State.endOfFrame_curCount : (s.endOfFrame).curCount = (if s.frameDone then 0 else s.curCount) := by unfold State.endOfFrame; split <;> simp
@[simp] theorem State.endOfFrame_urf : (s.endOfFrame).urf = (if s.frameDone then false else s.urf) := by unfold State.endOfFrame; split <;> simp
@[simp] theorem State.endOfFrame_inited : (s.endOfFrame).inited = s.inited := by unfold State.endOfFrame; split <;> simp
@[simp] theorem State.endOfFrame_en : (s.endOfFrame).en = s.en := by unfold State.endOfFrame; split <;> simp
@[simp] theorem State.endOfFrame_geomValid : (s.endOfFrame).geomValid = s.geomValid := by unfold State.endOfFrame; split <;> simp
@[simp] theorem State.endOfFrame_front : (s.endOfFrame).front = s.front := by unfold State.endOfFrame; split <;> simp
@[simp] theorem State.endOfFrame_fr : (s.endOfFrame).fr = (if s.frameDone then (s.fr || (decide (s.policy = .throughput) || s.ack)) else s.fr) := by unfold State.endOfFrame; split <;> simp
@[simp] theorem State.endOfFrame_ack : (s.endOfFrame).ack = (if s.frameDone then (s.ack && decide (s.policy = .throughput)) else s.ack) := by unfold State.endOfFrame; split <;> simp
@[simp] theorem State.endOfFrame_sync : (s.endOfFrame).sync = (if s.frameDone then .scanning else s.sync) := by unfold State.endOfFrame; split <;> simp
@[simp] theorem State.endOfFrame_lastb : (s.endOfFrame).lastb = (if s.frameDone then (if s.policy = .throughput ∨ s.ack = true then .signalReady else .hold) else s.lastb) := by unfold State.endOfFrame; split <;> simp
@[simp] theorem State.endOfFrame_pend : (s.endOfFrame).pend = s.pend := by unfold State.endOfFrame; split <;> simp
@[simp] theorem State.endOfFrame_fbValid0 : (s.endOfFrame).fbValid0 = s.fbValid0 := by unfold State.endOfFrame; split <;> simp
@[simp] theorem State.endOfFrame_fbValid1 : (s.endOfFrame).fbValid1 = s.fbValid1 := by unfold State.endOfFrame; split <;> simp
@[simp] theorem State.endOfFrame_result : (s.endOfFrame).result = s.result := by unfold State.endOfFrame; split <;> simp
@[simp] theorem State.endOfFrame_backlight : (s.endOfFrame).backlight = s.backlight := by unfold State.endOfFrame; split <;> simp
@[simp] theorem State.endOfFrame_rearm : (s.endOfFrame).rearm = s.rearm := by unfold State.endOfFrame; split <;> simp
@[simp] theorem State.endOfFrame_mem : (s.endOfFrame).mem = s.mem := by unfold State.endOfFrame; split <;> simp
@[simp] theorem State.endOfFrame_lbEng : (s.endOfFrame).lbEng = s.lbEng := by unfold State.endOfFrame; split <;> simp
@[simp] theorem State.endOfFrame_allocOk : (s.endOfFrame).allocOk = s.allocOk := by unfold State.endOfFrame; split <;> simp
@[simp] theorem State.endOfFrame_rstIn : (s.endOfFrame).rstIn = s.rstIn := by unfold State.endOfFrame; split <;> simp
@[simp] theorem State.endOfFrame_draw : (s.endOfFrame).draw = s.draw := by unfold State.endOfFrame; split <;> simp
@[simp] theorem State.endOfFrame_schedule : (s.endOfFrame).schedule = s.schedule := by unfold State.endOfFrame; split <;> simp
@[simp] theorem State.endOfFrame_stalled : (s.endOfFrame).stalled = s.stalled := by unfold State.endOfFrame; split <;> simp
@[simp] theorem State.endOfFrame_bus : (s.endOfFrame).bus = s.bus := by unfold State.endOfFrame; split <;> simp

@[simp] theorem State.scanLine_par (buf ur : Bool) : (s.scanLine buf ur).par = s.par := by simp only [State.scanLine, State.endOfFrame_par, State.advanceCursor_par, State.produceLine_par, State.recoverUnderrun_par]
@[simp] theorem State.scanLine_lw (buf ur : Bool) : (s.scanLine buf ur).lw = s.lw := by simp only [State.scanLine, State.endOfFrame_lw, State.advanceCursor_lw, State.produceLine_lw, State.recoverUnderrun_lw]
@[simp] theorem State.scanLine_lh (buf ur : Bool) : (s.scanLine buf ur).lh = s.lh := by simp only [State.scanLine, State.endOfFrame_lh, State.advanceCursor_lh, State.produceLine_lh, State.recoverUnderrun_lh]
@[simp] theorem State.scanLine_scale (buf ur : Bool) : (s.scanLine buf ur).scale = s.scale := by simp only [State.scanLine, State.endOfFrame_scale, State.advanceCursor_scale, State.produceLine_scale, State.recoverUnderrun_scale]
@[simp] theorem State.scanLine_rot (buf ur : Bool) : (s.scanLine buf ur).rot = s.rot := by simp only [State.scanLine, State.endOfFrame_rot, State.advanceCursor_rot, State.produceLine_rot, State.recoverUnderrun_rot]
@[simp] theorem State.scanLine_policy (buf ur : Bool) : (s.scanLine buf ur).policy = s.policy := by simp only [State.scanLine, State.endOfFrame_policy, State.advanceCursor_policy, State.produceLine_policy, State.recoverUnderrun_policy]
@[simp] theorem State.scanLine_geom (buf ur : Bool) : (s.scanLine buf ur).geom = s.geom := by simp only [State.scanLine, State.endOfFrame_geom, State.advanceCursor_geom, State.produceLine_geom, State.recoverUnderrun_geom]
@[simp] theorem State.scanLine_curSrc (buf ur : Bool) : (s.scanLine buf ur).curSrc = (if ((s.recoverUnderrun ur).produceLine buf).advanceCursor.frameDone then s.geom.startOffset else (if ur then s.geom.startOffset + s.geom.increment else s.curSrc) + s.geom.increment) := by simp only [State.scanLine, State.endOfFrame_curSrc, State.advanceCursor_curSrc, State.produceLine_curSrc, State.recoverUnderrun_curSrc, State.advanceCursor_geom, State.produceLine_geom, State.recoverUnderrun_geom]
@[simp] theorem State.scanLine_curCount (buf ur : Bool) : (s.scanLine buf ur).curCount = (if ((s.recoverUnderrun ur).produceLine buf).advanceCursor.frameDone then 0 else (if ur then 1 else s.curCount) + 1) := by simp only [State.scanLine, State.endOfFrame_curCount, State.advanceCursor_curCount, State.produceLine_curCount, State.recoverUnderrun_curCount]
@[simp] theorem State.scanLine_urf (buf ur : Bool) : (s.scanLine buf ur).urf = (if ((s.recoverUnderrun ur).produceLine buf).advanceCursor.frameDone then false else (ur || s.urf)) := by simp only [State.scanLine, State.endOfFrame_urf, State.advanceCursor_urf, State.produceLine_urf, State.recoverUnderrun_urf]
@[simp] theorem State.scanLine_inited (buf ur : Bool) : (s.scanLine buf ur).inited = s.inited := by simp only [State.scanLine, State.endOfFrame_inited, State.advanceCursor_inited, State.produceLine_inited, State.recoverUnderrun_inited]
@[simp] theorem State.scanLine_en (buf ur : Bool) : (s.scanLine buf ur).en = s.en := by simp only [State.scanLine, State.endOfFrame_en, State.advanceCursor_en, State.produceLine_en, State.recoverUnderrun_en]
@[simp] theorem State.scanLine_geomValid (buf ur : Bool) : (s.scanLine buf ur).geomValid = s.geomValid := by simp only [State.scanLine, State.endOfFrame_geomValid, State.advanceCursor_geomValid, State.produceLine_geomValid, State.recoverUnderrun_geomValid]
@[simp] theorem State.scanLine_front (buf ur : Bool) : (s.scanLine buf ur).front = s.front := by simp only [State.scanLine, State.endOfFrame_front, State.advanceCursor_front, State.produceLine_front, State.recoverUnderrun_front]
@[simp] theorem State.scanLine_fr (buf ur : Bool) : (s.scanLine buf ur).fr = (if ((s.recoverUnderrun ur).produceLine buf).advanceCursor.frameDone then (s.fr || (decide (s.policy = .throughput) || s.ack)) else s.fr) := by simp only [State.scanLine, State.endOfFrame_fr, State.advanceCursor_fr, State.produceLine_fr, State.recoverUnderrun_fr, State.advanceCursor_policy, State.produceLine_policy, State.recoverUnderrun_policy, State.advanceCursor_ack, State.produceLine_ack, State.recoverUnderrun_ack]
@[simp] theorem State.scanLine_ack (buf ur : Bool) : (s.scanLine buf ur).ack = (if ((s.recoverUnderrun ur).produceLine buf).advanceCursor.frameDone then (s.ack && decide (s.policy = .throughput)) else s.ack) := by simp only [State.scanLine, State.endOfFrame_ack, State.advanceCursor_ack, State.produceLine_ack, State.recoverUnderrun_ack, State.advanceCursor_policy, State.produceLine_policy, State.recoverUnderrun_policy]
@[simp] theorem State.scanLine_sync (buf ur : Bool) : (s.scanLine buf ur).sync = (if ((s.recoverUnderrun ur).produceLine buf).advanceCursor.frameDone then .scanning else s.sync) := by simp only [State.scanLine, State.endOfFrame_sync, State.advanceCursor_sync, State.produceLine_sync, State.recoverUnderrun_sync]
@[simp] theorem State.scanLine_lastb (buf ur : Bool) : (s.scanLine buf ur).lastb = (if ((s.recoverUnderrun ur).produceLine buf).advanceCursor.frameDone then (if s.policy = .throughput ∨ s.ack = true then .signalReady else .hold) else s.lastb) := by simp only [State.scanLine, State.endOfFrame_lastb, State.advanceCursor_lastb, State.produceLine_lastb, State.recoverUnderrun_lastb, State.advanceCursor_policy, State.produceLine_policy, State.recoverUnderrun_policy, State.advanceCursor_ack, State.produceLine_ack, State.recoverUnderrun_ack]
@[simp] theorem State.scanLine_pend (buf ur : Bool) : (s.scanLine buf ur).pend = s.pend := by simp only [State.scanLine, State.endOfFrame_pend, State.advanceCursor_pend, State.produceLine_pend, State.recoverUnderrun_pend]
@[simp] theorem State.scanLine_fbValid0 (buf ur : Bool) : (s.scanLine buf ur).fbValid0 = s.fbValid0 := by simp only [State.scanLine, State.endOfFrame_fbValid0, State.advanceCursor_fbValid0, State.produceLine_fbValid0, State.recoverUnderrun_fbValid0]
@[simp] theorem State.scanLine_fbValid1 (buf ur : Bool) : (s.scanLine buf ur).fbValid1 = s.fbValid1 := by simp only [State.scanLine, State.endOfFrame_fbValid1, State.advanceCursor_fbValid1, State.produceLine_fbValid1, State.recoverUnderrun_fbValid1]
@[simp] theorem State.scanLine_result (buf ur : Bool) : (s.scanLine buf ur).result = s.result := by simp only [State.scanLine, State.endOfFrame_result, State.advanceCursor_result, State.produceLine_result, State.recoverUnderrun_result]
@[simp] theorem State.scanLine_backlight (buf ur : Bool) : (s.scanLine buf ur).backlight = s.backlight := by simp only [State.scanLine, State.endOfFrame_backlight, State.advanceCursor_backlight, State.produceLine_backlight, State.recoverUnderrun_backlight]
@[simp] theorem State.scanLine_rearm (buf ur : Bool) : (s.scanLine buf ur).rearm = false := rfl
@[simp] theorem State.scanLine_allocOk (buf ur : Bool) : (s.scanLine buf ur).allocOk = s.allocOk := by simp only [State.scanLine, State.endOfFrame_allocOk, State.advanceCursor_allocOk, State.produceLine_allocOk, State.recoverUnderrun_allocOk]
@[simp] theorem State.scanLine_rstIn (buf ur : Bool) : (s.scanLine buf ur).rstIn = s.rstIn := by simp only [State.scanLine, State.endOfFrame_rstIn, State.advanceCursor_rstIn, State.produceLine_rstIn, State.recoverUnderrun_rstIn]
@[simp] theorem State.scanLine_draw (buf ur : Bool) : (s.scanLine buf ur).draw = s.draw := by simp only [State.scanLine, State.endOfFrame_draw, State.advanceCursor_draw, State.produceLine_draw, State.recoverUnderrun_draw]
@[simp] theorem State.scanLine_schedule (buf ur : Bool) : (s.scanLine buf ur).schedule = s.schedule := by simp only [State.scanLine, State.endOfFrame_schedule, State.advanceCursor_schedule, State.produceLine_schedule, State.recoverUnderrun_schedule]
@[simp] theorem State.scanLine_stalled (buf ur : Bool) : (s.scanLine buf ur).stalled = s.stalled := by simp only [State.scanLine, State.endOfFrame_stalled, State.advanceCursor_stalled, State.produceLine_stalled, State.recoverUnderrun_stalled]
@[simp] theorem State.scanLine_bus (buf ur : Bool) : (s.scanLine buf ur).bus = s.bus := by simp only [State.scanLine, State.endOfFrame_bus, State.advanceCursor_bus, State.produceLine_bus, State.recoverUnderrun_bus]

@[simp] theorem State.handoff_par (f : Bool) : (s.handoff f).par = s.par := rfl
@[simp] theorem State.handoff_lw (f : Bool) : (s.handoff f).lw = s.lw := rfl
@[simp] theorem State.handoff_lh (f : Bool) : (s.handoff f).lh = s.lh := rfl
@[simp] theorem State.handoff_scale (f : Bool) : (s.handoff f).scale = s.scale := rfl
@[simp] theorem State.handoff_rot (f : Bool) : (s.handoff f).rot = s.rot := rfl
@[simp] theorem State.handoff_policy (f : Bool) : (s.handoff f).policy = s.policy := rfl
@[simp] theorem State.handoff_geom (f : Bool) : (s.handoff f).geom = s.geom := rfl
@[simp] theorem State.handoff_curSrc (f : Bool) : (s.handoff f).curSrc = s.curSrc := rfl
@[simp] theorem State.handoff_curCount (f : Bool) : (s.handoff f).curCount = s.curCount := rfl
@[simp] theorem State.handoff_urf (f : Bool) : (s.handoff f).urf = s.urf := rfl
@[simp] theorem State.handoff_inited (f : Bool) : (s.handoff f).inited = s.inited := rfl
@[simp] theorem State.handoff_en (f : Bool) : (s.handoff f).en = s.en := rfl
@[simp] theorem State.handoff_geomValid (f : Bool) : (s.handoff f).geomValid = s.geomValid := rfl
@[simp] theorem State.handoff_front (f : Bool) : (s.handoff f).front = f := rfl
@[simp] theorem State.handoff_fr (f : Bool) : (s.handoff f).fr = false := rfl
@[simp] theorem State.handoff_ack (f : Bool) : (s.handoff f).ack = true := rfl
@[simp] theorem State.handoff_sync (f : Bool) : (s.handoff f).sync = s.sync := rfl
@[simp] theorem State.handoff_lastb (f : Bool) : (s.handoff f).lastb = s.lastb := rfl
@[simp] theorem State.handoff_pend (f : Bool) : (s.handoff f).pend = s.pend := rfl
@[simp] theorem State.handoff_fbValid0 (f : Bool) : (s.handoff f).fbValid0 = s.fbValid0 := rfl
@[simp] theorem State.handoff_fbValid1 (f : Bool) : (s.handoff f).fbValid1 = s.fbValid1 := rfl
@[simp] theorem State.handoff_result (f : Bool) : (s.handoff f).result = ⟨.ok, s.fr⟩ := rfl
@[simp] theorem State.handoff_backlight (f : Bool) : (s.handoff f).backlight = s.backlight := rfl
@[simp] theorem State.handoff_rearm (f : Bool) : (s.handoff f).rearm = s.rearm := rfl
@[simp] theorem State.handoff_mem (f : Bool) : (s.handoff f).mem = s.mem := rfl
@[simp] theorem State.handoff_lbEng (f : Bool) : (s.handoff f).lbEng = s.lbEng := rfl
@[simp] theorem State.handoff_allocOk (f : Bool) : (s.handoff f).allocOk = s.allocOk := rfl
@[simp] theorem State.handoff_rstIn (f : Bool) : (s.handoff f).rstIn = s.rstIn := rfl
@[simp] theorem State.handoff_draw (f : Bool) : (s.handoff f).draw = s.draw := rfl
@[simp] theorem State.handoff_schedule (f : Bool) : (s.handoff f).schedule = s.schedule := rfl
@[simp] theorem State.handoff_stalled (f : Bool) : (s.handoff f).stalled = s.stalled := rfl
@[simp] theorem State.handoff_bus (f : Bool) : (s.handoff f).bus = s.bus := rfl

@[simp] theorem State.takeVsync_par : (s.takeVsync).par = s.par := rfl
@[simp] theorem State.takeVsync_lw : (s.takeVsync).lw = s.lw := rfl
@[simp] theorem State.takeVsync_lh : (s.takeVsync).lh = s.lh := rfl
@[simp] theorem State.takeVsync_scale : (s.takeVsync).scale = s.scale := rfl
@[simp] theorem State.takeVsync_rot : (s.takeVsync).rot = s.rot := rfl
@[simp] theorem State.takeVsync_policy : (s.takeVsync).policy = s.policy := rfl
@[simp] theorem State.takeVsync_geom : (s.takeVsync).geom = s.geom := rfl
@[simp] theorem State.takeVsync_curSrc : (s.takeVsync).curSrc = s.curSrc := rfl
@[simp] theorem State.takeVsync_curCount : (s.takeVsync).curCount = s.curCount := rfl
@[simp] theorem State.takeVsync_urf : (s.takeVsync).urf = s.urf := rfl
@[simp] theorem State.takeVsync_inited : (s.takeVsync).inited = s.inited := rfl
@[simp] theorem State.takeVsync_en : (s.takeVsync).en = s.en := rfl
@[simp] theorem State.takeVsync_geomValid : (s.takeVsync).geomValid = s.geomValid := rfl
@[simp] theorem State.takeVsync_front : (s.takeVsync).front = s.front := rfl
@[simp] theorem State.takeVsync_fr : (s.takeVsync).fr = false := rfl
@[simp] theorem State.takeVsync_ack : (s.takeVsync).ack = s.ack := rfl
@[simp] theorem State.takeVsync_sync : (s.takeVsync).sync = s.sync := rfl
@[simp] theorem State.takeVsync_lastb : (s.takeVsync).lastb = s.lastb := rfl
@[simp] theorem State.takeVsync_pend : (s.takeVsync).pend = s.pend := rfl
@[simp] theorem State.takeVsync_fbValid0 : (s.takeVsync).fbValid0 = s.fbValid0 := rfl
@[simp] theorem State.takeVsync_fbValid1 : (s.takeVsync).fbValid1 = s.fbValid1 := rfl
@[simp] theorem State.takeVsync_result : (s.takeVsync).result = ⟨.ok, true⟩ := rfl
@[simp] theorem State.takeVsync_backlight : (s.takeVsync).backlight = s.backlight := rfl
@[simp] theorem State.takeVsync_rearm : (s.takeVsync).rearm = s.rearm := rfl
@[simp] theorem State.takeVsync_mem : (s.takeVsync).mem = s.mem := rfl
@[simp] theorem State.takeVsync_lbEng : (s.takeVsync).lbEng = s.lbEng := rfl
@[simp] theorem State.takeVsync_allocOk : (s.takeVsync).allocOk = s.allocOk := rfl
@[simp] theorem State.takeVsync_rstIn : (s.takeVsync).rstIn = s.rstIn := rfl
@[simp] theorem State.takeVsync_draw : (s.takeVsync).draw = s.draw := rfl
@[simp] theorem State.takeVsync_schedule : (s.takeVsync).schedule = s.schedule := rfl
@[simp] theorem State.takeVsync_stalled : (s.takeVsync).stalled = s.stalled := rfl
@[simp] theorem State.takeVsync_bus : (s.takeVsync).bus = s.bus := rfl

@[simp] theorem State.endSession_par : (s.endSession).par = s.par := rfl
@[simp] theorem State.endSession_lw : (s.endSession).lw = 0 := rfl
@[simp] theorem State.endSession_lh : (s.endSession).lh = 0 := rfl
@[simp] theorem State.endSession_scale : (s.endSession).scale = s.scale := rfl
@[simp] theorem State.endSession_rot : (s.endSession).rot = s.rot := rfl
@[simp] theorem State.endSession_policy : (s.endSession).policy = .throughput := rfl
@[simp] theorem State.endSession_geom : (s.endSession).geom = Geometry.zero := rfl
@[simp] theorem State.endSession_curSrc : (s.endSession).curSrc = 0 := rfl
@[simp] theorem State.endSession_curCount : (s.endSession).curCount = 0 := rfl
@[simp] theorem State.endSession_urf : (s.endSession).urf = false := rfl
@[simp] theorem State.endSession_inited : (s.endSession).inited = false := rfl
@[simp] theorem State.endSession_en : (s.endSession).en = s.en := rfl
@[simp] theorem State.endSession_geomValid : (s.endSession).geomValid = false := rfl
@[simp] theorem State.endSession_front : (s.endSession).front = false := rfl
@[simp] theorem State.endSession_fr : (s.endSession).fr = false := rfl
@[simp] theorem State.endSession_ack : (s.endSession).ack = false := rfl
@[simp] theorem State.endSession_sync : (s.endSession).sync = s.sync := rfl
@[simp] theorem State.endSession_lastb : (s.endSession).lastb = .none := rfl
@[simp] theorem State.endSession_pend : (s.endSession).pend = s.pend := rfl
@[simp] theorem State.endSession_fbValid0 : (s.endSession).fbValid0 = false := rfl
@[simp] theorem State.endSession_fbValid1 : (s.endSession).fbValid1 = false := rfl
@[simp] theorem State.endSession_result : (s.endSession).result = s.result := rfl
@[simp] theorem State.endSession_backlight : (s.endSession).backlight = s.backlight := rfl
@[simp] theorem State.endSession_rearm : (s.endSession).rearm = s.rearm := rfl
@[simp] theorem State.endSession_mem : (s.endSession).mem = s.mem := rfl
@[simp] theorem State.endSession_lbEng : (s.endSession).lbEng = s.lbEng := rfl
@[simp] theorem State.endSession_allocOk : (s.endSession).allocOk = s.allocOk := rfl
@[simp] theorem State.endSession_rstIn : (s.endSession).rstIn = s.rstIn := rfl
@[simp] theorem State.endSession_draw : (s.endSession).draw = s.draw + 1 := rfl
@[simp] theorem State.endSession_schedule : (s.endSession).schedule = s.schedule := rfl
@[simp] theorem State.endSession_stalled : (s.endSession).stalled = s.stalled := rfl
@[simp] theorem State.endSession_bus : (s.endSession).bus = s.bus := rfl

/-- Two states with equal fields are equal. -/
theorem State.ext_fields {s t : State}
    (par : s.par = t.par) (lw : s.lw = t.lw) (lh : s.lh = t.lh) (scale : s.scale = t.scale)
    (rot : s.rot = t.rot) (policy : s.policy = t.policy) (geom : s.geom = t.geom) (curSrc : s.curSrc = t.curSrc)
    (curCount : s.curCount = t.curCount) (urf : s.urf = t.urf) (inited : s.inited = t.inited) (en : s.en = t.en)
    (geomValid : s.geomValid = t.geomValid) (front : s.front = t.front) (fr : s.fr = t.fr) (ack : s.ack = t.ack)
    (sync : s.sync = t.sync) (lastb : s.lastb = t.lastb) (pend : s.pend = t.pend) (fbValid0 : s.fbValid0 = t.fbValid0)
    (fbValid1 : s.fbValid1 = t.fbValid1) (result : s.result = t.result) (backlight : s.backlight = t.backlight) (rearm : s.rearm = t.rearm)
    (mem : s.mem = t.mem) (lbEng : s.lbEng = t.lbEng) (allocOk : s.allocOk = t.allocOk) (rstIn : s.rstIn = t.rstIn)
    (draw : s.draw = t.draw) (schedule : s.schedule = t.schedule) (stalled : s.stalled = t.stalled) (bus : s.bus = t.bus) :
    s = t := by
  cases s
  cases t
  simp only [State.mk.injEq]
  exact ⟨par, lw, lh, scale, rot, policy, geom, curSrc, curCount, urf, inited, en, geomValid, front, fr, ack, sync, lastb, pend, fbValid0, fbValid1, result, backlight, rearm, mem, lbEng, allocOk, rstIn, draw, schedule, stalled, bus⟩

end Sys2Proof.Machine
end

