-- ==== Sys2Proof/Laws/Ops.lean ====
section
/-! SUPPORT. What each shared operation does, said once: the pixels a line write leaves in the two views, the fields of an
accepted `LINE`, and that the operations keep both memories canonical. -/

namespace Sys2Proof.Machine

/-! ### Pixels and bytes -/

theorem runBytes_length (vs : List Pixel) : (runBytes vs).length = 2 * vs.length := by
  unfold runBytes
  induction vs with
  | nil => rfl
  | cons v vs ih =>
    rw [List.flatMap_cons, List.length_append, ih, List.length_cons]
    show 2 + 2 * vs.length = 2 * (vs.length + 1)
    omega

/-- The two bytes of pixel `k` of a run. -/
theorem runBytes_getElem? (vs : List Pixel) (k : Nat) :
    (runBytes vs)[2 * k]? = vs[k]?.map (fun v => v.extractLsb' 0 8) ∧
    (runBytes vs)[2 * k + 1]? = vs[k]?.map (fun v => v.extractLsb' 8 8) := by
  unfold runBytes
  induction vs generalizing k with
  | nil => simp
  | cons v vs ih =>
    cases k with
    | zero => exact ⟨rfl, rfl⟩
    | succ k =>
      have e1 : 2 * (k + 1) = 2 * k + 1 + 1 := by omega
      rw [List.flatMap_cons, e1]
      exact ih k

/-- A pixel is the pixel of its two bytes (20_memory.md R67). -/
theorem pixelOfBytes_pixelBytes (v : Pixel) : pixelOfBytes (v.extractLsb' 0 8) (v.extractLsb' 8 8) = v := by
  unfold pixelOfBytes
  ext i hi
  simp only [BitVec.getElem_append, BitVec.getElem_extractLsb']
  split
  · simp [BitVec.getLsbD_eq_getElem, hi]
  · have : 8 + (i - 8) = i := by omega
    simp [this, BitVec.getLsbD_eq_getElem, hi]

/-- The bytes of the pixel of two bytes (20_memory.md R67). -/
theorem pixelBytes_pixelOfBytes (lo hi : Byte) :
    (pixelOfBytes lo hi).extractLsb' 0 8 = lo ∧ (pixelOfBytes lo hi).extractLsb' 8 8 = hi := by
  unfold pixelOfBytes
  constructor
  · ext i hi
    rw [BitVec.getElem_extractLsb', BitVec.getLsbD_append]
    simp [hi]
  · ext i hi
    rw [BitVec.getElem_extractLsb', BitVec.getLsbD_append]
    simp [hi]

/-- What a pixel stored at an address leaves in memory: its two bytes, low byte first, and every other byte (20_memory.md R67). -/
theorem Memory.load_store_pixel (m : Memory) (a : Nat) (v : Pixel) :
    (m.store a (pixelBytes v)).load a = some (v.extractLsb' 0 8) ∧
    (m.store a (pixelBytes v)).load (a + 1) = some (v.extractLsb' 8 8) ∧
    ∀ x, x < a ∨ a + 2 ≤ x → (m.store a (pixelBytes v)).load x = m.load x :=
  ⟨by simp [Memory.load_store, pixelBytes], by simp [Memory.load_store, pixelBytes],
    fun x hx => Memory.load_store_outside m a (pixelBytes v) x hx⟩

theorem lbAddr_add (p : Params) (b : Bool) (x k : Nat) : lbAddr p b (x + k) = lbAddr p b x + 2 * k := by
  unfold lbAddr
  omega

theorem replicatePixels_length (n : Nat) (vs : List Pixel) : (replicatePixels n vs).length = vs.length * n := by
  unfold replicatePixels
  induction vs with
  | nil => simp
  | cons v vs ih =>
    rw [List.flatMap_cons, List.length_append, List.length_replicate, ih, List.length_cons, Nat.succ_mul]
    omega

/-- Pixel `j * n + r` of the replicated run is pixel `j` of the run (41_scanout.md R163). -/
theorem replicatePixels_getElem? (n : Nat) (vs : List Pixel) (j r : Nat) (hr : r < n) :
    (replicatePixels n vs)[j * n + r]? = vs[j]? := by
  unfold replicatePixels
  induction vs generalizing j with
  | nil => simp
  | cons v vs ih =>
    rw [List.flatMap_cons]
    cases j with
    | zero =>
      rw [List.getElem?_append_left (by simpa using hr)]
      simp [hr]
    | succ j =>
      have e : (j + 1) * n + r = n + (j * n + r) := by rw [Nat.succ_mul]; omega
      rw [e, List.getElem?_append_right (by simp)]
      simpa using ih j

theorem sourceRun_length (s : State) : s.sourceRun.length = s.sourceCount := by
  simp [State.sourceRun]

/-! ### A line write -/

/-- A byte of the engine's view after a line write. -/
theorem State.load_lineWrite_lbEng (s : State) (b : Bool) (x : Nat) (vs : List Pixel) (a : Nat) :
    (s.lineWrite b x vs).lbEng.load a =
      if lbAddr s.par b x ≤ a ∧ a < lbAddr s.par b (x + vs.length) then (runBytes vs)[a - lbAddr s.par b x]?
      else s.lbEng.load a := by
  rw [State.lineWrite_lbEng, Memory.load_store, runBytes_length, lbAddr_add]

/-- A byte of the device's view after a line write: the flush covers exactly the bytes written. -/
theorem State.load_lineWrite_mem (s : State) (b : Bool) (x : Nat) (vs : List Pixel) (a : Nat) :
    (s.lineWrite b x vs).mem.load a =
      if lbAddr s.par b x ≤ a ∧ a < lbAddr s.par b (x + vs.length) then (runBytes vs)[a - lbAddr s.par b x]?
      else s.mem.load a := by
  have e : (s.lineWrite b x vs).mem =
      (s.lineStore b x vs).lbEng.copyRange s.mem (lbAddr s.par b x) (lbAddr s.par b (x + vs.length)) := rfl
  rw [e, Memory.load_copyRange]
  by_cases h : lbAddr s.par b x ≤ a ∧ a < lbAddr s.par b (x + vs.length)
  · have h2 := h
    rw [lbAddr_add] at h2
    rw [if_pos h, if_pos h, State.lineStore_lbEng, Memory.load_store, runBytes_length, if_pos h2]
  · rw [if_neg h, if_neg h]

/-- A byte outside the written range reads as before in both views. -/
theorem State.load_lineWrite_outside (s : State) (b : Bool) (x : Nat) (vs : List Pixel) (a : Nat)
    (h : a < lbAddr s.par b x ∨ lbAddr s.par b (x + vs.length) ≤ a) :
    (s.lineWrite b x vs).mem.load a = s.mem.load a ∧ (s.lineWrite b x vs).lbEng.load a = s.lbEng.load a := by
  rw [State.load_lineWrite_mem, State.load_lineWrite_lbEng, if_neg (by omega), if_neg (by omega)]
  exact ⟨rfl, rfl⟩

/-- Both views hold the two bytes of every pixel of the run. -/
theorem State.load_lineWrite_pixel (s : State) (b : Bool) (x : Nat) (vs : List Pixel) (k : Nat) (hk : k < vs.length) :
    let t := s.lineWrite b x vs
    let a := lbAddr s.par b (x + k)
    t.mem.load a = some (vs[k].extractLsb' 0 8) ∧ t.mem.load (a + 1) = some (vs[k].extractLsb' 8 8) ∧
    t.lbEng.load a = some (vs[k].extractLsb' 0 8) ∧ t.lbEng.load (a + 1) = some (vs[k].extractLsb' 8 8) := by
  have ha := lbAddr_add s.par b x k
  have hl := lbAddr_add s.par b x vs.length
  have hb := runBytes_getElem? vs k
  rw [List.getElem?_eq_getElem hk] at hb
  have d0 : lbAddr s.par b (x + k) - lbAddr s.par b x = 2 * k := by omega
  have d1 : lbAddr s.par b (x + k) + 1 - lbAddr s.par b x = 2 * k + 1 := by omega
  refine ⟨?_, ?_, ?_, ?_⟩
  · rw [State.load_lineWrite_mem, if_pos (by omega), d0, hb.1]; rfl
  · rw [State.load_lineWrite_mem, if_pos (by omega), d1, hb.2]; rfl
  · rw [State.load_lineWrite_lbEng, if_pos (by omega), d0, hb.1]; rfl
  · rw [State.load_lineWrite_lbEng, if_pos (by omega), d1, hb.2]; rfl

/-- A line write keeps both memories canonical. -/
theorem State.lineWrite_wf (s : State) (b : Bool) (x : Nat) (vs : List Pixel) (hm : s.mem.wf) (hl : s.lbEng.wf) :
    (s.lineWrite b x vs).mem.wf ∧ (s.lineWrite b x vs).lbEng.wf :=
  ⟨Memory.copyRange_wf _ _ _ _ (Memory.store_wf _ _ _ hl) hm, Memory.store_wf _ _ _ hl⟩

theorem State.zeroFill_wf (s : State) (hm : s.mem.wf) (hl : s.lbEng.wf) : s.zeroFill.mem.wf ∧ s.zeroFill.lbEng.wf := by
  have h := State.lineWrite_wf s false 0 (blankRun s.par.pw) hm hl
  exact State.lineWrite_wf (s.blankLine false) true 0 _ h.1 h.2

theorem State.newFrames_wf (s : State) (hm : s.mem.wf) : s.newFrames.mem.wf :=
  Memory.forget_wf _ _ _ (Memory.forget_wf _ _ _ hm)

theorem State.produceLine_wf (s : State) (b : Bool) (hm : s.mem.wf) (hl : s.lbEng.wf) :
    (s.produceLine b).mem.wf ∧ (s.produceLine b).lbEng.wf := by
  unfold State.produceLine
  split
  · exact State.lineWrite_wf s b _ _ hm hl
  · exact State.lineWrite_wf s b _ _ hm hl

/-! ### The zero fill and what loads a geometry -/

/-- Every byte of a blank run is 0. -/
theorem runBytes_blankRun (n k : Nat) (hk : k < 2 * n) : (runBytes (blankRun n))[k]? = some 0 := by
  have h := runBytes_getElem? (blankRun n) (k / 2)
  have hp : (blankRun n)[k / 2]? = some 0x0000 := by
    unfold blankRun
    rw [List.getElem?_replicate, if_pos (by omega)]
  rw [hp] at h
  rcases Nat.mod_two_eq_zero_or_one k with e | e
  · rw [show k = 2 * (k / 2) by omega, h.1]
    rfl
  · rw [show k = 2 * (k / 2) + 1 by omega, h.2]
    rfl

/-- A byte address of line buffer `b`. -/
def inLineBuffer (p : Params) (b : Bool) (a : Nat) : Prop := lbAddr p b 0 ≤ a ∧ a < lbAddr p b p.pw

/-- A blanked line reads 0 in both views, and every other byte as before. -/
theorem State.load_blankLine (s : State) (b : Bool) (a : Nat) :
    (inLineBuffer s.par b a → (s.blankLine b).mem.load a = some 0 ∧ (s.blankLine b).lbEng.load a = some 0) ∧
    (¬ inLineBuffer s.par b a →
      (s.blankLine b).mem.load a = s.mem.load a ∧ (s.blankLine b).lbEng.load a = s.lbEng.load a) := by
  have hl : (blankRun s.par.pw).length = s.par.pw := List.length_replicate
  have h0 := lbAddr_add s.par b 0 s.par.pw
  rw [Nat.zero_add] at h0
  unfold State.blankLine inLineBuffer
  rw [State.load_lineWrite_mem, State.load_lineWrite_lbEng, hl, Nat.zero_add]
  constructor
  · intro h
    rw [if_pos h, if_pos h, runBytes_blankRun _ _ (by omega)]
    exact ⟨rfl, rfl⟩
  · intro h
    rw [if_neg h, if_neg h]
    exact ⟨rfl, rfl⟩

/-- After the zero fill both line buffers read 0 in both views, and every other byte as before (20_memory.md R66). -/
theorem State.load_zeroFill (s : State) (a : Nat) :
    ((∃ b, inLineBuffer s.par b a) → s.zeroFill.mem.load a = some 0 ∧ s.zeroFill.lbEng.load a = some 0) ∧
    ((∀ b, ¬ inLineBuffer s.par b a) →
      s.zeroFill.mem.load a = s.mem.load a ∧ s.zeroFill.lbEng.load a = s.lbEng.load a) := by
  have h0 := State.load_blankLine s false a
  have h1 := State.load_blankLine (s.blankLine false) true a
  rw [State.blankLine_par] at h1
  unfold State.zeroFill
  constructor
  · rintro ⟨b, hb⟩
    by_cases ht : inLineBuffer s.par true a
    · exact h1.1 ht
    · have hf : inLineBuffer s.par false a := by
        cases b
        · exact hb
        · exact absurd hb ht
      rw [(h1.2 ht).1, (h1.2 ht).2]
      exact h0.1 hf
  · intro h
    rw [(h1.2 (h true)).1, (h1.2 (h true)).2]
    exact h0.2 (h false)

/-- Loading a geometry does to memory what the zero fill does. -/
theorem State.load_loadGeometry (s : State) (g : Geometry Int) (a : Nat) :
    ((∃ b, inLineBuffer s.par b a) → (s.loadGeometry g).mem.load a = some 0 ∧ (s.loadGeometry g).lbEng.load a = some 0) ∧
    ((∀ b, ¬ inLineBuffer s.par b a) →
      (s.loadGeometry g).mem.load a = s.mem.load a ∧ (s.loadGeometry g).lbEng.load a = s.lbEng.load a) := by
  have h := State.load_zeroFill ({ s with geom := g.toRegs, geomValid := true }).cursorStart a
  simp only [State.cursorStart_par, State.cursorStart_mem, State.cursorStart_lbEng] at h
  exact h

/-- The new frames' bytes are unwritten, and every other byte reads as before (20_memory.md R65). -/
theorem State.load_newFrames (s : State) (a : Nat) :
    s.newFrames.mem.load a =
      if (∃ f, fbAddr s.par f 0 ≤ a ∧ a < fbAddr s.par f s.framePixels) then none else s.mem.load a := by
  have e : s.newFrames.mem = (s.mem.forget (fbAddr s.par false 0) (fbAddr s.par false s.framePixels)).forget
      (fbAddr s.par true 0) (fbAddr s.par true s.framePixels) := rfl
  rw [e, Memory.load_forget, Memory.load_forget]
  by_cases ht : fbAddr s.par true 0 ≤ a ∧ a < fbAddr s.par true s.framePixels
  · rw [if_pos ht, if_pos ⟨true, ht⟩]
  · rw [if_neg ht]
    by_cases hf : fbAddr s.par false 0 ≤ a ∧ a < fbAddr s.par false s.framePixels
    · rw [if_pos hf, if_pos ⟨false, hf⟩]
    · rw [if_neg hf, if_neg]
      rintro ⟨f, h⟩
      cases f
      · exact hf h
      · exact ht h

/-- The memories after a successful `INIT`: both line buffers 0, the frames' bytes unwritten, every other byte as before. -/
theorem State.load_beginSession (s : State) (pol : Policy) (w h : BitVec 13) (g : Geometry Int) (a : Nat) :
    ((∃ b, inLineBuffer s.par b a) →
      (s.beginSession pol w h g).mem.load a = some 0 ∧ (s.beginSession pol w h g).lbEng.load a = some 0) ∧
    ((∀ b, ¬ inLineBuffer s.par b a) →
      (s.beginSession pol w h g).mem.load a =
        (if (∃ f, fbAddr s.par f 0 ≤ a ∧ a < fbAddr s.par f (w.toNat * h.toNat)) then none else s.mem.load a) ∧
      (s.beginSession pol w h g).lbEng.load a = s.lbEng.load a) := by
  let s1 := ({ s with lw := w, lh := h, policy := pol }).newFrames
  let s2 := { s1 with front := false, fbValid0 := true, fbValid1 := true, lastb := .none }
  have hl := State.load_loadGeometry ((s2.give .fr).give .ack) g a
  have hn := State.load_newFrames { s with lw := w, lh := h, policy := pol } a
  have em : (s.beginSession pol w h g).mem = (((s2.give .fr).give .ack).loadGeometry g).mem := rfl
  have el : (s.beginSession pol w h g).lbEng = (((s2.give .fr).give .ack).loadGeometry g).lbEng := rfl
  rw [em, el]
  have ep : ((s2.give .fr).give .ack).par = s.par := rfl
  have e1 : ((s2.give .fr).give .ack).mem = s1.mem := rfl
  have e2 : ((s2.give .fr).give .ack).lbEng = s.lbEng := rfl
  rw [ep, e1, e2] at hl
  refine ⟨hl.1, fun hb => ⟨(hl.2 hb).1.trans hn, (hl.2 hb).2⟩⟩

/-- The two bytes of a pixel in both views are that pixel for the engine, and within a session for the display. -/
theorem State.pixel_of_load (s : State) (b : Bool) (x : Nat) (v : Pixel)
    (h : s.mem.load (lbAddr s.par b x) = some (v.extractLsb' 0 8) ∧ s.mem.load (lbAddr s.par b x + 1) = some (v.extractLsb' 8 8) ∧
      s.lbEng.load (lbAddr s.par b x) = some (v.extractLsb' 0 8) ∧ s.lbEng.load (lbAddr s.par b x + 1) = some (v.extractLsb' 8 8)) :
    s.enginePixel? b x = some v ∧ (s.inited = true → s.devicePixel b x = v) := by
  obtain ⟨m0, m1, l0, l1⟩ := h
  constructor
  · unfold State.enginePixel?
    rw [l0, l1]
    exact congrArg some (pixelOfBytes_pixelBytes v)
  · intro hi
    unfold State.devicePixel State.byteAt
    rw [if_pos hi, m0, m1, Option.getD_some, Option.getD_some]
    exact pixelOfBytes_pixelBytes v

/-- Two zero bytes in both views are a black pixel for the engine, and within a session for the display. -/
theorem State.pixel_zero (s : State) (b : Bool) (x : Nat)
    (h0 : s.mem.load (lbAddr s.par b x) = some 0 ∧ s.lbEng.load (lbAddr s.par b x) = some 0)
    (h1 : s.mem.load (lbAddr s.par b x + 1) = some 0 ∧ s.lbEng.load (lbAddr s.par b x + 1) = some 0) :
    s.enginePixel? b x = some 0x0000 ∧ (s.inited = true → s.devicePixel b x = 0x0000) := by
  constructor
  · unfold State.enginePixel?
    rw [h0.2, h1.2]
    rfl
  · intro hi
    unfold State.devicePixel State.byteAt
    rw [if_pos hi, h0.1, h1.1, Option.getD_some, Option.getD_some]
    rfl

/-- The two bytes of a pixel of a line buffer lie in it. -/
theorem inLineBuffer_pixel (p : Params) (b : Bool) (x : Nat) (hx : x < p.pw) :
    inLineBuffer p b (lbAddr p b x) ∧ inLineBuffer p b (lbAddr p b x + 1) := by
  unfold inLineBuffer lbAddr
  omega

/-! ### An accepted `LINE` -/

/-- `LINE` answers its own next state when it is accepted and the same state when it is not. -/
theorem execLine_eq (buf ur : Bool) (s : State) :
    execLine buf ur s = .next (if s.inited && s.en then s.scanLine buf ur else s) := by
  unfold execLine State.accepts
  split <;> rfl

/-- The memories after an accepted `LINE` are those its line write leaves. -/
theorem State.scanLine_mem (s : State) (buf ur : Bool) :
    (s.scanLine buf ur).mem = ((s.recoverUnderrun ur).produceLine buf).mem ∧
    (s.scanLine buf ur).lbEng = ((s.recoverUnderrun ur).produceLine buf).lbEng := by
  unfold State.scanLine
  simp only [State.endOfFrame_mem, State.advanceCursor_mem, State.endOfFrame_lbEng, State.advanceCursor_lbEng, and_self]

/-- The end-of-frame test of an accepted `LINE`, in terms of the state before it. -/
theorem State.frameDone_scan (s : State) (buf ur : Bool) :
    ((s.recoverUnderrun ur).produceLine buf).advanceCursor.frameDone =
      decide (s.geom.linesPerFrame.toInt ≤ (((if ur then 1 else s.curCount) + 1 : Word).toNat : Int)) := by
  unfold State.frameDone
  simp only [State.advanceCursor_geom, State.advanceCursor_curCount, State.produceLine_geom, State.produceLine_curCount,
    State.recoverUnderrun_geom, State.recoverUnderrun_curCount]

end Sys2Proof.Machine
end

