-- ==== Sys2Proof/Laws/Params.lean ====
section
/-! SUPPORT. What 20_memory.md R70 says of the windows: no two of the four pixel arrays share a byte; the line buffers on
every platform with legal parameters, the frames where the platform keeps R70 for the size in use. -/

namespace Sys2Proof.Machine

/-- Frames that exist have a window of at least one pixel. -/
theorem State.framePixels_pos (s : State) (h : 1 ≤ s.lw.toNat ∧ 1 ≤ s.lh.toNat) : 0 < s.framePixels :=
  Nat.mul_pos h.1 h.2

/-- What the windows being apart says of the four pixel regions, for frames of `n` pixels (20_memory.md R70). -/
theorem Params.windows_apart (p : Params) (n : Nat) (h : p.WindowsApart n) :
    Apart (p.fb0Base, 2 * n) (p.fb1Base, 2 * n) ∧
    (∀ b, Apart (p.fb0Base, 2 * n) (lbBase p b, 2 * p.pw) ∧ Apart (p.fb1Base, 2 * n) (lbBase p b, 2 * p.pw)) ∧
    Apart (p.lb0Base, 2 * p.pw) (p.lb1Base, 2 * p.pw) := by
  obtain ⟨h0, h⟩ := List.pairwise_cons.mp h.1
  obtain ⟨h1, h⟩ := List.pairwise_cons.mp h
  obtain ⟨h2, -⟩ := List.pairwise_cons.mp h
  refine ⟨h0 _ (by simp), fun b => ?_, h2 _ (by simp)⟩
  cases b
  · exact ⟨h0 _ (by simp [lbBase]), h1 _ (by simp [lbBase])⟩
  · exact ⟨h0 _ (by simp [lbBase]), h1 _ (by simp [lbBase])⟩

/-- The two line buffers share no byte (20_memory.md R70). -/
theorem Params.lineBuffers_apart (p : Params) (h : p.Valid) :
    p.lb0Base + 2 * p.pw ≤ p.lb1Base ∨ p.lb1Base + 2 * p.pw ≤ p.lb0Base := by
  have h1 := (Params.windows_apart p 0 h.2.2.2.2).2.2
  have hp := h.1.1
  unfold Apart at h1
  omega

/-- A frame and a line buffer share no byte (20_memory.md R70). -/
theorem State.frame_lineBuffer_apart (s : State) (h : s.WindowsApart) (hw : 0 < s.par.pw) (hn : 0 < s.framePixels)
    (f b : Bool) :
    fbAddr s.par f s.framePixels ≤ lbAddr s.par b 0 ∨ lbAddr s.par b s.par.pw ≤ fbAddr s.par f 0 := by
  have h1 := (Params.windows_apart s.par _ h).2.1 b
  unfold Apart at h1
  cases f
  · have := h1.1
    simp only [fbAddr, lbAddr, fbBase, Bool.false_eq_true, if_false]
    omega
  · have := h1.2
    simp only [fbAddr, lbAddr, fbBase, if_true]
    omega

/-- The two frames share no byte (20_memory.md R70). -/
theorem State.frames_apart (s : State) (h : s.WindowsApart) (hn : 0 < s.framePixels) (f : Bool) :
    fbAddr s.par f s.framePixels ≤ fbAddr s.par (!f) 0 ∨ fbAddr s.par (!f) s.framePixels ≤ fbAddr s.par f 0 := by
  have h1 := (Params.windows_apart s.par _ h).1
  unfold Apart at h1
  cases f <;> simp only [fbAddr, fbBase, Bool.not_true, Bool.not_false, Bool.false_eq_true, if_true, if_false] <;> omega

/-- With no frames (before the first `INIT`, and after `TEARDOWN`) the windows in use are those of the parameters alone. -/
theorem State.windowsApart_of_noFrames (s : State) (h : s.par.Valid) (hn : s.framePixels = 0) : s.WindowsApart := by
  unfold State.WindowsApart
  rw [hn]
  exact h.2.2.2.2

end Sys2Proof.Machine
end

