-- ==== Sys2Proof/Laws/PerInstr.lean ====
section
/-! SUPPORT. Facts stated of each instruction as syntax, one lemma per constructor. -/

namespace Sys2Proof.Laws

open Sys2Proof

/-- Bit `i` of a number placed at bit `lo`. -/
theorem getLsbD_place (v lo i : Nat) :
    (place v lo).getLsbD i = (decide (i < 32) && decide (lo ≤ i) && v.testBit (i - lo)) := by
  unfold place
  by_cases h : i < 32 <;> by_cases h2 : lo ≤ i
  · have e : i - lo < 32 := by omega
    have h3 : ¬ i < lo := by omega
    rw [BitVec.getLsbD_shiftLeft, BitVec.getLsbD_ofNat]
    simp [h, h2, h3, e]
  · have h3 : i < lo := by omega
    rw [BitVec.getLsbD_shiftLeft]
    simp [h, h2, h3]
  · rw [BitVec.getLsbD_of_ge _ _ (by omega)]
    simp [h]
  · rw [BitVec.getLsbD_of_ge _ _ (by omega)]
    simp [h]

/-- A placed number has no bit under a mask that is 0 where the number lies. -/
theorem place_and (v lo n : Nat) (m : Word) (hv : v < 2 ^ n) (hm : ∀ k < n, m.getLsbD (lo + k) = false) :
    place v lo &&& m = 0#32 := by
  apply BitVec.eq_of_getLsbD_eq
  intro i _
  rw [BitVec.getLsbD_and, getLsbD_place]
  by_cases h : lo ≤ i
  · by_cases h2 : i - lo < n
    · have := hm (i - lo) h2
      rw [show lo + (i - lo) = i by omega] at this
      simp [this]
    · have : v.testBit (i - lo) = false :=
        Nat.testBit_lt_two_pow (lt_of_lt_of_le hv (Nat.pow_le_pow_right (by decide) (by omega)))
      simp [this]
  · simp [h]

theorem placeBit_and (b : Bool) (i : Nat) (m : Word) (hm : m.getLsbD i = false) : placeBit b i &&& m = 0#32 := by
  refine place_and b.toNat i 1 m (by cases b <;> decide) ?_
  intro k hk
  have : k = 0 := by omega
  simpa [this] using hm

theorem and_or_distrib (x y m : Word) : (x ||| y) &&& m = (x &&& m) ||| (y &&& m) := by
  apply BitVec.eq_of_getLsbD_eq
  intro i _
  simp only [BitVec.getLsbD_and, BitVec.getLsbD_or, Bool.and_or_distrib_right]

end Sys2Proof.Laws

namespace Sys2Proof.Laws.SelectsItsRow

open Sys2Proof

/-- The word of a well-formed instruction selects the row of the opcode map that bears its name and its port
(30_encoding.md R99, R106). -/
def Statement (i : Instr) : Prop :=
  i.wf = true → ∃ r ∈ opcodeMap, r.mnemonic = i.mnemonic ∧ r.port = i.port ∧ r.selects i.encode = true

theorem init (pol : Policy) (w h : Nat) : Statement (.init pol w h) := by
  intro hwf
  simp only [Instr.wf, Bool.and_eq_true, decide_eq_true_eq] at hwf
  refine ⟨⟨"INIT", 0x00000001, 0x8000000F, .cmd⟩, by decide, rfl, rfl, ?_⟩
  simp only [OpcodeRow.selects, Instr.encode, and_or_distrib]
  rw [placeBit_and _ _ _ (by decide), place_and w 5 13 _ (by omega) (by decide), place_and h 18 13 _ (by omega) (by decide)]
  decide

theorem recompute : Statement .recompute := fun _ => by decide

theorem setXform (scale : Nat) (rot : Bool) : Statement (.setXform scale rot) := by
  intro hwf
  simp only [Instr.wf, decide_eq_true_eq] at hwf
  refine ⟨⟨"SET_XFORM", 0x00000003, 0xFFFFFF8F, .cmd⟩, by decide, rfl, rfl, ?_⟩
  simp only [OpcodeRow.selects, Instr.encode, and_or_distrib]
  rw [place_and scale 4 2 _ (by omega) (by decide), placeBit_and _ _ _ (by decide)]
  decide

theorem enable : Statement .enable := fun _ => by decide

theorem disable : Statement .disable := fun _ => by decide

theorem acquire : Statement .acquire := fun _ => by decide

theorem publish (f : Bool) : Statement (.publish f) := fun _ => by cases f <;> decide

theorem waitVsync : Statement .waitVsync := fun _ => by decide

theorem pollVsync : Statement .pollVsync := fun _ => by decide

theorem setBacklight (pct : Nat) : Statement (.setBacklight pct) := by
  intro hwf
  simp only [Instr.wf, decide_eq_true_eq] at hwf
  refine ⟨⟨"SET_BACKLIGHT", 0x0000000A, 0xFFFFF00F, .cmd⟩, by decide, rfl, rfl, ?_⟩
  simp only [OpcodeRow.selects, Instr.encode, and_or_distrib]
  rw [place_and pct 4 8 _ (by omega) (by decide)]
  decide

theorem teardown : Statement .teardown := fun _ => by decide

theorem line (buf ur : Bool) : Statement (.line buf ur) := fun _ => by cases buf <;> cases ur <;> decide

end Sys2Proof.Laws.SelectsItsRow
end

