-- ==== Sys2Proof/Laws/Run.lean ====
section
/-! SUPPORT. Runs of the machine one step at a time, and what a step does with the head of the schedule. -/

namespace Sys2Proof.Machine

/-- The unfolding of a run, in terms of the interface's own step. -/
theorem run_succ (M : Host.Core) (n : Nat) (s : M.State) :
    Host.Core.run M (n + 1) s =
      match M.step s with
      | .next t => Host.Core.run M n t
      | .fault r => .fault r
      | .refused r => .refused r := rfl

theorem run_zero (s : State) : Host.Core.run core 0 s = .next s := rfl

/-- A run whose first step answers a next state goes on from there. -/
theorem run_succ_of_next (n : Nat) (s t : State) (h : step s = .next t) :
    Host.Core.run core (n + 1) s = Host.Core.run core n t := by
  have e : core.step s = .next t := h
  exact (run_succ core n s).trans (by rw [e])

/-- A run that answers a next state took a first step that did. -/
theorem run_succ_next (n : Nat) (s u : State) (h : Host.Core.run core (n + 1) s = .next u) :
    ∃ t, step s = .next t ∧ Host.Core.run core n t = .next u := by
  replace h := (run_succ core n s).symm.trans h
  cases e : core.step s with
  | next t =>
    rw [e] at h
    exact ⟨t, e, h⟩
  | fault r =>
    rw [e] at h
    cases h
  | refused r =>
    rw [e] at h
    cases h

/-- A run of one step is the step. -/
theorem run_one (s : State) : Host.Core.run core 1 s = step s := by
  refine (run_succ core 0 s).trans ?_
  show _ = core.step s
  cases core.step s <;> rfl

/-- One step that answers a next state, as a run. -/
theorem run_one_of_next (s t : State) (h : step s = .next t) : Host.Core.run core 1 s = .next t := (run_one s).trans h

/-- A run goes on from where its first part ends. -/
theorem run_add (n m : Nat) (s t : State) (h : Host.Core.run core n s = .next t) :
    Host.Core.run core (n + m) s = Host.Core.run core m t := by
  induction n generalizing s with
  | zero =>
    cases h
    rw [Nat.zero_add]
  | succ n ih =>
    obtain ⟨u, e1, e2⟩ := run_succ_next n s t h
    rw [show n + 1 + m = (n + m) + 1 by omega, run_succ_of_next _ _ _ e1]
    exact ih u e2

/-- A step performs the head of the schedule. -/
theorem step_cons (s : State) (e : AgentStep) (rest : List AgentStep) (h : s.schedule = e :: rest) :
    step s = perform e { s with schedule := rest } := by
  unfold step nextStep
  rw [h]

/-- With an empty schedule the host agent has the turn. -/
theorem step_nil (s : State) (h : s.schedule = []) : step s = hostTurn s := by
  unfold step nextStep
  rw [h]

/-- A word a free command port accepts is issued; a stalled one before it, if any waits. -/
theorem perform_cmdWrite (w : Word) (s : State) (hr : s.rstIn = false) :
    perform (.hostWrite 0x0 4 w) s = cmdWrite w s := by
  simp [perform, hr, wordAccess]

theorem perform_evtWrite (w : Word) (s : State) (hr : s.rstIn = false) :
    perform (.evtWrite 0x0 4 w) s = evtWrite w s := by
  simp [perform, hr, wordAccess]

/-- A line event is the `LINE` it carries. -/
theorem perform_lineEvent (buf ur : Bool) (s : State) (hr : s.rstIn = false) :
    perform (lineEvent buf ur) s = exec (.line buf ur) s := by
  have hd : decode .evt (Instr.line buf ur).encode = .ok (.line buf ur) := by revert buf ur; decide
  unfold lineEvent
  rw [perform_evtWrite _ _ hr, evtWrite, hd]

end Sys2Proof.Machine
end

