-- ==== Sys2Proof/Tests/Slice0.lean ====
section
/-! SUPPORT. Tests on small states, with expected results from 95_test_vectors.md or worked by hand from the rules; and, for
each statement that has hypotheses, a state and operands that meet them. -/

namespace Sys2Proof.Tests

open Sys2Proof Sys2Proof.Machine

/-! ### Helpers -/

/-- The small panel of 95_test_vectors.md: 8 by 6. -/
def small : Params := { Config.params with pw := 8, ph := 6 }

/-- Reset on the small panel. -/
def s0 : State := State.resetWith small

/-- The next state of an outcome; the reset state where it is none. -/
def after (o : Host.Outcome State Fault Refusal) : State :=
  match o with
  | .next t => t
  | _ => s0

/-- A run of instructions, each on the state the one before it leaves. -/
def execAll : List Instr → State → State
  | [], s => s
  | i :: is, s => execAll is (after (exec i s))

/-- A session of 4 by 3 pixels at scale 2: geometry [0, 0, 0, 4, 12, 4, 0, 1, 0, 3]. -/
def session (pol : Policy) : State := execAll [.setXform 2 false, .init pol 4 3] s0

/-- The session with the display enabled. -/
def scanning (pol : Policy) : State := execAll [.enable] (session pol)

/-- The session at the last line of its frame. -/
def lastLine (pol : Policy) : State := execAll [.line false false, .line true false] (scanning pol)

/-- A rotated session of 3 by 2 at scale 2: geometry [0, 2, 0, 1, 3, 2, 3, -3, 2, 3]. -/
def rotated : State := execAll [.setXform 2 true, .init .throughput 3 2, .enable] s0

/-- A session of 4 by 3 at scale 1: six lines a frame, of which three show the picture, with margins. -/
def scale1 : State := execAll [.init .throughput 4 3, .enable] s0

/-- Frame 0 filled with a run of pixels. -/
def filled (s : State) (vs : List Pixel) : State := { s with mem := s.mem.store (fbAddr s.par false 0) (runBytes vs) }

/-- The steps still to come. -/
def withSteps (s : State) (es : List AgentStep) : State := { s with schedule := es }

/-- A held `PUBLISH 0`, after a `PUBLISH 1`: `FR = 0`, `ACK = 1`. -/
def heldPublish : State := execAll [.publish true, .publish false] (scanning .tearfree)

/-- A held `WAIT_VSYNC`, after one that took `FR`. -/
def heldWait : State := execAll [.waitVsync, .waitVsync] (scanning .throughput)

/-- The pixels the display sees in a line buffer. -/
def shown (s : State) (b : Bool) : List Pixel := (List.range 8).map (fun x => s.devicePixel b x)

/-- The ten values in the order of 95_test_vectors.md. -/
def ten (g : Geometry Int) : List Int :=
  [g.offsetX, g.offsetY, g.startOffset, g.increment, g.validSpan, g.lineWidth, g.lineBase, g.stride, g.dstStart, g.linesPerFrame]

/-! ### Well-formedness: one ill-formed term for each check -/

theorem test_wf_init_width : (Instr.init .throughput 8192 1).wf = false := by decide
theorem test_wf_init_height : (Instr.init .throughput 1 8192).wf = false := by decide
theorem test_wf_setXform : (Instr.setXform 4 false).wf = false := by decide
theorem test_wf_setBacklight : (Instr.setBacklight 256).wf = false := by decide

/-! ### Decoding: the words written out bit by bit from 30_encoding.md R92 to R97 (95_test_vectors.md section 2) -/

theorem test_decode_init : decode .cmd 0b00000011110000000010100000010001#32 = .ok (.init .tearfree 320 240) := by decide
theorem test_decode_init_largest : decode .cmd 0b01111111111111111111111111110001#32 = .ok (.init .tearfree 8191 8191) := by
  decide
theorem test_decode_recompute : decode .cmd 0b00000000000000000000000000000010#32 = .ok .recompute := by decide
theorem test_decode_setXform : decode .cmd 0b00000000000000000000000001010011#32 = .ok (.setXform 1 true) := by decide
theorem test_decode_enable : decode .cmd 0b00000000000000000000000000000100#32 = .ok .enable := by decide
theorem test_decode_disable : decode .cmd 0b00000000000000000000000000000101#32 = .ok .disable := by decide
theorem test_decode_acquire : decode .cmd 0b00000000000000000000000000000110#32 = .ok .acquire := by decide
theorem test_decode_publish : decode .cmd 0b00000000000000000000000000010111#32 = .ok (.publish true) := by decide
theorem test_decode_waitVsync : decode .cmd 0b00000000000000000000000000001000#32 = .ok .waitVsync := by decide
theorem test_decode_pollVsync : decode .cmd 0b00000000000000000000000000001001#32 = .ok .pollVsync := by decide
theorem test_decode_setBacklight : decode .cmd 0b00000000000000000000011001011010#32 = .ok (.setBacklight 101) := by decide
theorem test_decode_teardown : decode .cmd 0b00000000000000000000000000001011#32 = .ok .teardown := by decide
theorem test_decode_line : decode .evt 0b00000000000000000000000000101111#32 = .ok (.line false true) := by decide

/-- The words 95_test_vectors.md section 2 lists as refused on `CMD`. -/
theorem test_decode_refused_on_cmd :
    [0x00000000#32, 0x0000000C#32, 0x0000000D#32, 0x0000000E#32].all (fun w => decode .cmd w == .error .reservedOp) = true ∧
    [0x83C02811#32, 0x00000012#32, 0x00000104#32, 0x00000083#32, 0x00000027#32, 0x0000100A#32, 0xFFFFFFFF#32].all
      (fun w => decode .cmd w == .error .reservedBit) = true ∧
    decode .cmd 0x0000000F#32 = .error .wrongPort := by decide

/-- The words 95_test_vectors.md section 2 lists as ignored on `EVT`. -/
theorem test_decode_ignored_on_evt :
    decode .evt 0x0000004F#32 = .error .reservedBit ∧ decode .evt 0x00000007#32 = .error .wrongPort ∧
    decode .evt 0x00000000#32 = .error .reservedOp := by decide

/-- The encoder gives the words of 95_test_vectors.md section 2. -/
theorem test_encode :
    (Instr.init .tearfree 320 240).encode = 0x03C02811 ∧ (Instr.setXform 2 true).encode = 0x63 ∧
    (Instr.publish true).encode = 0x17 ∧ (Instr.setBacklight 255).encode = 0xFFA ∧ (Instr.line true true).encode = 0x3F ∧
    (Instr.init .throughput 8191 8191).encode = 0x7FFFFFE1 := by decide

theorem test_table_word : decodeTableWord 32 0x0000032A = some (.setBacklight 50) ∧ decodeTableWord 32 0x1F = some (.line true false) := by
  decide

/-- The host's placing of a word: the very next step runs it. -/
theorem test_fetch_word :
    step (State.reset.withFetchWord 32 0x00000013) = exec (.setXform 1 false) State.reset ∧
    step ((scanning .throughput).withFetchWord 32 0x1F) = exec (.line true false) (scanning .throughput) := ⟨rfl, rfl⟩

/-! ### Geometry (95_test_vectors.md T1, T5, section 3) -/

theorem test_geom_plain :
    (calcGeom 320 240 720 720 3 false).map ten = some [-120, 0, 40, 320, 76800, 240, 0, 1, 0, 240] ∧
    (calcGeom 240 242 720 720 3 false).map ten = some [0, -3, 240, 240, 58080, 240, 0, 1, 0, 240] ∧
    (calcGeom 3 3 8 6 3 false).map ten = some [0, -1, 0, 3, 9, 2, 0, 1, 0, 2] ∧
    (calcGeom 8191 8191 8191 8191 3 false).map ten = some [-8191, -8191, 22364160, 8191, 67092481, 2730, 0, 1, 0, 2730] := by
  decide

theorem test_geom_rotated :
    (calcGeom 3 5 8 6 2 true).map ten = some [0, -1, 0, 1, 3, 4, 12, -3, 0, 3] ∧
    (calcGeom 1 8191 8 6 1 true).map ten = some [2, -4091, 0, 1, 1, 8, 4099, -1, 0, 6] ∧
    (calcGeom 8191 8191 8191 8191 3 true).map ten = some [-8191, -8191, 2730, 1, 8191, 2730, 44722860, -8191, 0, 2730] := by
  decide

theorem test_geom_error :
    calcGeom 0 5 8 6 1 false = none ∧ calcGeom 5 0 8 6 1 false = none ∧ calcGeom 4 3 8 6 0 false = none ∧
    calcGeom 1 1 2 2 3 false = none := by decide

theorem test_center_offset : centerOffset 720 240 4 = -120 ∧ centerOffset 8 9 1 = 0 ∧ centerOffset 8 11 1 = -1 ∧ centerOffset 8 5 1 = 1 := by
  decide

/-! ### Instructions, one step each (95_test_vectors.md sections 3 and 4) -/

theorem test_init :
    let t := execAll [.init .throughput 4 3] s0
    t.statusWord = 0x6035 ∧ t.cfgDimWord = 0x00030004 ∧ t.xformWord = 1 ∧ t.resultWord = 0 ∧
    t.geom = (⟨2, 1, 0, 4, 12, 4, 0, 1, 2, 6⟩ : Geometry Int).toRegs ∧ shown t true = List.replicate 8 0 := by decide

theorem test_init_errors :
    (execAll [.init .throughput 0 5] { s0 with allocOk := false }).resultWord = 1 ∧
    (execAll [.init .throughput 4 3] { s0 with allocOk := false }).resultWord = 2 ∧
    (execAll [.init .throughput 0 0] (session .throughput)).resultWord = 4 := by decide

theorem test_recompute :
    let t := execAll [.line false false, .line true true, .disable, .setXform 2 false, .recompute]
      (filled (scanning .throughput) (List.replicate 12 0xFFFF))
    t.statusWord = 0x6035 ∧ t.curSrc = 0 ∧ t.curCount = 0 ∧ t.resultWord = 0 ∧ shown t false = List.replicate 8 0 := by decide

theorem test_recompute_config_error :
    let t := execAll [.setXform 0 false, .recompute] (session .throughput)
    t.resultWord = 1 ∧ t.statusWord = 0x6031 ∧ t.geom = (session .throughput).geom := by decide

theorem test_setXform : (execAll [.setXform 2 true] s0).xformWord = 6 ∧ (execAll [.setXform 2 false] (session .throughput)).statusWord = 0x6031 := by
  decide

theorem test_setXform_enabled :
    let t := execAll [.setXform 1 false] (scanning .throughput)
    t.resultWord = 4 ∧ t.xformWord = 2 ∧ t.statusWord = 0x6037 := by decide

theorem test_enable : (scanning .throughput).statusWord = 0x6037 ∧ (execAll [.enable] (lastLine .throughput)).curSrc = 8 := by decide

theorem test_enable_refused :
    (execAll [.enable] s0).resultWord = 4 ∧ (execAll [.setXform 2 false, .enable] (session .throughput)).resultWord = 4 := by decide

theorem test_disable :
    let t := execAll [.disable] (lastLine .throughput)
    t.statusWord = 0x6035 ∧ t.curSrc = 8 ∧ t.curCount = 2 ∧ (execAll [.enable] t).curSrc = 0 := by decide

theorem test_acquire : (execAll [.acquire] (session .throughput)).resultWord = 0x10 ∧ (execAll [.acquire] s0).resultWord = 4 := by decide

theorem test_publish :
    let t := execAll [.publish true] (session .tearfree)
    (t.front, t.fr, t.ack, t.resultWord) = (true, false, true, 0x10) ∧
    (execAll [.publish true, .publish false] (session .throughput)).resultWord = 0 ∧
    (execAll [.publish false] (session .tearfree)).resultWord = 4 := by decide

theorem test_publish_held : heldPublish.statusWord = 0x702F ∧ heldPublish.resultWord = 0x10 ∧ heldPublish.wires.busy = true := by decide

theorem test_waitVsync :
    (execAll [.waitVsync] (session .tearfree)).resultWord = 0x10 ∧ (execAll [.waitVsync] (session .tearfree)).fr = false ∧
    heldWait.pend = .waitVsync := by decide

theorem test_waitVsync_commit :
    let t := after (step { heldWait with fr := true })
    (t.fr, t.pend, t.resultWord) = (false, .none, 0x10) := by decide

theorem test_pollVsync :
    (execAll [.pollVsync] (session .tearfree)).resultWord = 0x10 ∧
    (execAll [.pollVsync, .pollVsync] (session .tearfree)).resultWord = 0 := by decide

theorem test_setBacklight :
    (execAll [.setBacklight 100] s0).backlightWord = 0x64 ∧ (execAll [.setBacklight 50, .setBacklight 101] s0).backlightWord = 0x32 ∧
    (execAll [.setBacklight 50, .setBacklight 255] s0).resultWord = 0 := by decide

theorem test_teardown :
    let t := execAll [.setBacklight 50, .disable, .teardown] (scanning .tearfree)
    t.statusWord = 0 ∧ t.cfgDimWord = 0 ∧ t.xformWord = 2 ∧ t.backlightWord = 50 ∧ t.geom = Geometry.zero := by decide

theorem test_teardown_refused :
    (execAll [.teardown] (scanning .tearfree)).resultWord = 4 ∧ (execAll [.teardown] s0).resultWord = 4 := by decide

theorem test_line_rotated :
    let t := execAll [.line false false] (filled rotated [0xA00, 0xA01, 0xA02, 0xA10, 0xA11, 0xA12])
    shown t false = [0, 0, 0xA10, 0xA10, 0xA00, 0xA00, 0, 0] ∧ t.curSrc = 1 ∧ t.curCount = 1 := by decide

theorem test_line_underrun :
    let s := filled scale1 [0x300, 0x301, 0x302, 0x303, 0x304, 0x305, 0x306, 0x307, 0x308, 0x309, 0x30A, 0x30B]
    let t := execAll [.line false false, .line true false, .line false true] s
    shown t false = [0, 0, 0x304, 0x305, 0x306, 0x307, 0, 0] ∧ t.curSrc = 8 ∧ t.curCount = 2 ∧ t.urf = true := by decide

/-! ### The hypotheses of the statements are met: encoding, ports, reset -/

theorem witness_DecodeOfEncodedInstruction :
    (Instr.init .tearfree 8191 8191).wf = true ∧ (Instr.setXform 3 true).wf = true ∧ (Instr.setBacklight 255).wf = true ∧
    (Instr.line true true).wf = true ∧ Instr.teardown.wf = true := by decide

theorem witness_EncodeOfDecodedWord :
    decode .cmd 0x7FFFFFF1#32 = .ok (.init .tearfree 8191 8191) ∧ decode .evt 0x3F#32 = .ok (.line true true) := by decide

theorem witness_DecodeFollowsOpcodeMap :
    decode .cmd 0xFFA#32 = .ok (.setBacklight 255) ∧
    (∃ r ∈ opcodeMap, r.mnemonic = "SET_BACKLIGHT" ∧ r.selects 0xFFA#32 = true) ∧
    (∃ r ∈ opcodeMap, r.mnemonic = "LINE" ∧ r.selects 0x3F#32 = true) := by decide

theorem witness_StepRunsDecodedInstruction :
    let s := withSteps s0 [.hostWrite 0x0 4 0x33#32, .evtWrite 0x0 4 0xF#32]
    (s.rstIn = false ∧ s.pend = .none ∧ s.stalled = [] ∧ decode .cmd 0x33#32 = .ok (.setXform 3 false)) ∧
    s.schedule = .hostWrite 0x0 4 0x33#32 :: [.evtWrite 0x0 4 0xF#32] ∧
    (withSteps (scanning .throughput) [.evtWrite 0x0 4 0xF#32]).schedule = .evtWrite 0x0 4 0xF#32 :: [] ∧
    decode .evt 0xF#32 = .ok (.line false false) := by decide

theorem witness_ReservedCommandWordIsRefused :
    let s := withSteps s0 [.hostWrite 0x0 4 0xF#32]
    s.schedule = .hostWrite 0x0 4 0xF#32 :: [] ∧ s.rstIn = false ∧ s.pend = .none ∧ s.stalled = [] ∧
    (∀ r ∈ opcodeMap, r.port = .cmd → r.selects 0xF#32 = false) ∧
    (∀ r ∈ opcodeMap, r.port = .cmd → r.selects 0x12#32 = false) := by decide

theorem witness_InvalidEventWordIsIgnored :
    (withSteps (scanning .throughput) [.evtWrite 0x0 4 0x4F#32]).schedule = .evtWrite 0x0 4 0x4F#32 :: [] ∧
    0x4F#32 &&& 0xFFFFFFCF#32 ≠ 0x0000000F#32 ∧ (scanning .throughput).evtReg 0x4 = 0 := by decide

theorem witness_WriteToBusyPortIsStalled :
    let s := withSteps heldPublish [.hostWrite 0x0 4 0x5#32]
    s.schedule = .hostWrite 0x0 4 0x5#32 :: [] ∧ s.rstIn = false ∧ s.pend ≠ .none := by decide

theorem witness_CommitOfHeldCommand :
    let s := withSteps heldPublish [.hostTurn]
    let w := withSteps heldWait [.hostTurn]
    (s.schedule = .hostTurn :: [] ∧ s.rstIn = false ∧ s.pend = .publish ∧ s.fr = false ∧ ({ s with fr := true } : State).fr = true) ∧
    (w.schedule = .hostTurn :: [] ∧ w.rstIn = false ∧ w.pend = .waitVsync ∧ w.fr = false ∧ ({ w with fr := true } : State).fr = true) := by
  decide

/-- Behind a held command, in a turn of a free port, and behind a later write to a free port: a command's word and a reserved one. -/
theorem witness_StalledWriteIsIssuedAfterCommit :
    let s : Word → State := fun w => { withSteps heldPublish [.hostTurn, .hostTurn] with fr := true, stalled := [w] }
    let f : Word → State := fun w => { withSteps (session .tearfree) [.hostTurn] with stalled := [w, 0x6#32] }
    let g : Word → State := fun w => { withSteps (session .tearfree) [.hostWrite 0x0 4 0x8#32] with stalled := [w] }
    (∀ w, (s w).schedule = .hostTurn :: .hostTurn :: [] ∧ (s w).rstIn = false ∧ (s w).pend ≠ .none ∧ (s w).fr = true ∧
      (s w).stalled = w :: []) ∧
    (∀ w, (f w).schedule = .hostTurn :: [] ∧ (f w).rstIn = false ∧ (f w).pend = .none ∧ (f w).stalled = w :: [0x6#32]) ∧
    (∀ w, (g w).schedule = .hostWrite 0x0 4 0x8#32 :: [] ∧ (g w).rstIn = false ∧ (g w).pend = .none ∧ (g w).stalled = w :: []) ∧
    decode .cmd 0x5#32 = .ok .disable ∧ (∀ r ∈ opcodeMap, r.port = .cmd → r.selects 0xF#32 = false) :=
  ⟨fun _ => ⟨rfl, rfl, show heldPublish.pend ≠ .none by decide, rfl, rfl⟩, fun _ => ⟨rfl, rfl, rfl, rfl⟩, fun _ => ⟨rfl, rfl, rfl, rfl⟩, by decide, by decide⟩

theorem witness_PortAccesses :
    (withSteps s0 [.hostRead 0x48 4]).schedule = .hostRead 0x48 4 :: [] ∧
    (withSteps s0 [.evtRead 0x4 4]).schedule = .evtRead 0x4 4 :: [] ∧ (0x4C ≤ 0x4C ∧ s0.hostReg 0x4C = 0) ∧ ((0x8 : Nat) ≠ 0x4) ∧
    (withSteps s0 [.hostWrite 0x0 2 0x4#32]).schedule = .hostWrite 0x0 2 0x4#32 :: [] ∧ ¬ ((0x0 : Nat) = 0x0 ∧ (2 : Nat) = 4) := by
  decide

theorem small_valid : small.Valid := by decide

/-- A platform whose arrays touch: two frames of 4 by 3 pixels (24 bytes), two lines of 8 (16 bytes), the register blocks. -/
def tight : Params :=
  { small with
    fb0Base := 0x100, fb1Base := 0x118, lb0Base := 0x130, lb1Base := 0x140, regBase := 0x150, evtBase := 0x19C }

/-- The windows of 20_memory.md R70 are those of the size in use: one source row more would overlap. -/
theorem test_windows_of_size_in_use :
    tight.Valid ∧ tight.WindowsApart 12 ∧ ¬ tight.WindowsApart 16 := by decide

/-- The offsets of 30_encoding.md R103 from 0x18 to 0x44, in order. -/
theorem test_register_map :
    [0x18, 0x1C, 0x20, 0x24, 0x28, 0x2C, 0x30, 0x34, 0x38, 0x3C, 0x40, 0x44].map
      (execAll [.line false false] scale1).hostReg = [2, 1, 0, 4, 12, 4, 0, 1, 2, 6, 4, 1] := by decide

theorem witness_ConfigurationRegisterFields : (session .tearfree).par.Valid := by decide

theorem witness_ResetFromAnyState :
    (withSteps heldPublish [.rst true]).schedule = .rst true :: [] ∧
    (withSteps ({ s0 with rstIn := true }) [.hostTurn]).schedule = .hostTurn :: [] ∧
    (withSteps ({ s0 with rstIn := true }) [.hostTurn]).rstIn = true ∧
    (∃ off width v, AgentStep.hostWrite 0x0 4 0x4#32 = .hostWrite off width v) ∧
    (∃ off width v, AgentStep.evtWrite 0x0 4 0xF#32 = .evtWrite off width v) :=
  ⟨rfl, rfl, rfl, ⟨_, _, _, rfl⟩, ⟨_, _, _, rfl⟩⟩

/-! ### The hypotheses are met: geometry -/

theorem witness_GeomErrorsExactly :
    (calcGeom 4 3 3 3 3 false).isSome = true ∧ calcGeom 4 3 2 3 3 false = none ∧ ((3 : Nat) = 1 ∨ (3 : Nat) = 2 ∨ (3 : Nat) = 3) := by
  decide

theorem witness_GeometryValues :
    (calcGeom 240 242 720 720 3 false).isSome = true ∧ (calcGeom 3 5 8 6 2 true).isSome = true := by decide

/-- The bounds of R139 at their ends: the smallest and the largest picture and panel. -/
theorem witness_GeometryFitsItsRegisters :
    (calcGeom 8191 8191 8191 8191 3 true).isSome = true ∧ (calcGeom 1 1 1 1 1 false).isSome = true ∧
    (calcGeom 8191 8191 8191 8191 1 false).isSome = true := by decide

theorem witness_GeometryStaysInBounds :
    ∃ g, calcGeom 8191 1 8 6 1 false = some g ∧ (0 : Int) ≤ g.startOffset + (0 : Int) * g.increment ∧
      g.startOffset + (0 : Int) * g.increment < g.validSpan ∧ (7 : Int) < g.lineWidth :=
  ⟨geomPlain 8191 1 8 6 1, by decide, by decide, by decide, by decide⟩

/-- Content one source row too tall, content that fits exactly, and content that leaves lines blank; for the pixels of a row, a
row wider than the panel, and a rotated picture. -/
theorem witness_WhichLinesAreBlank :
    ((calcGeom 4 4 8 6 2 false).isSome = true ∧ 4 * 2 > 6) ∧ ((calcGeom 4 3 8 6 2 false).isSome = true ∧ 3 * 2 ≤ 6) ∧
    ((calcGeom 2 3 8 6 2 true).isSome = true ∧ 2 * 2 ≤ 6) ∧
    (calcGeom 11 6 8 6 1 false = some (geomPlain 11 6 8 6 1) ∧ 6 * 1 ≤ 6 ∧ 5 < 6 ∧ (7 : Int) < (geomPlain 11 6 8 6 1).lineWidth) ∧
    (calcGeom 3 5 8 6 2 true = some (geomRotated 3 5 8 6 2) ∧ 3 * 2 ≤ 6 ∧ 2 < 3 ∧ (3 : Int) < (geomRotated 3 5 8 6 2).lineWidth) := by
  decide

theorem witness_SetXformStoresAndMarksStale :
    (Instr.setXform 3 true).wf = true ∧ (session .throughput).en = false ∧ (scanning .throughput).en = true := by decide

theorem witness_RecomputeLoadsGeometry :
    let s := execAll [.setXform 1 true] (session .tearfree)
    s.inited = true ∧ s.en = false ∧
    calcGeom s.lw.toNat s.lh.toNat s.par.pw s.par.ph s.scale.toNat s.rot = some (geomRotated 4 3 8 6 1) := by decide

theorem witness_RecomputeFailures :
    let s := execAll [.setXform 0 false] (session .tearfree)
    s0.inited = false ∧ (scanning .tearfree).en = true ∧ s.inited = true ∧ s.en = false ∧
    calcGeom s.lw.toNat s.lh.toNat s.par.pw s.par.ph s.scale.toNat s.rot = none := by decide

theorem witness_RecomputeIsIdempotent :
    ∃ t, exec .recompute (session .tearfree) = .next t ∧ t.result.code = .ok := ⟨_, rfl, by decide⟩

/-! ### The hypotheses are met: scanout -/

theorem scanning_inv (pol : Policy) : (scanning pol).Inv where
  params := by cases pol <;> decide
  enabled := by cases pol <;> decide
  idle := by
    intro h
    cases pol <;> exact absurd h (by decide)
  session := by cases pol <;> decide
  geometry := fun _ => ⟨by cases pol <;> decide, geomPlain 4 3 8 6 2, by cases pol <;> decide, by cases pol <;> decide⟩
  cursor := fun _ => by
    unfold State.CursorInFrame
    cases pol <;> decide
  held := by cases pol <;> decide
  heldPublish := by cases pol <;> decide
  scanning := by cases pol <;> decide
  rearm := by cases pol <;> decide

theorem heldPublish_inv : heldPublish.Inv where
  params := by decide
  enabled := by decide
  idle := fun h => absurd h (by decide)
  session := by decide
  geometry := fun _ => ⟨by decide, geomPlain 4 3 8 6 2, by decide, by decide⟩
  cursor := fun _ => by
    unfold State.CursorInFrame
    decide
  held := by decide
  heldPublish := by decide
  scanning := by decide
  rearm := by decide

/-- A schedule is no part of the invariants. -/
theorem inv_withSteps (s : State) (es : List AgentStep) (h : s.Inv) : (withSteps s es).Inv where
  params := h.params
  enabled := h.enabled
  idle hi := by
    have i := h.idle hi
    exact ⟨i.en, i.geomValid, i.fr, i.ack, i.front, i.fbValid0, i.fbValid1, i.lw, i.lh, i.pend, i.lastb, i.geom, i.curSrc,
      i.curCount, i.urf⟩
  session := h.session
  geometry := h.geometry
  cursor := h.cursor
  held := h.held
  heldPublish := h.heldPublish
  scanning := h.scanning
  rearm := h.rearm

theorem witness_LineIgnoredUnlessArmed :
    ¬ (s0.inited = true ∧ s0.en = true) ∧ ¬ ((session .tearfree).inited = true ∧ (session .tearfree).en = true) := by decide

/-- A line inside a frame, the last line of a frame, and an underrun. -/
theorem witness_LineAdvancesCursor :
    (scanning .throughput).inited = true ∧ (scanning .throughput).en = true ∧ (lastLine .throughput).en = true ∧
    (lastLine .throughput).geom.linesPerFrame.toInt ≤ (((lastLine .throughput).curCount + 1).toNat : Int) := by decide

/-- The three branches of a boundary, and a line that ends no frame. -/
theorem witness_FrameBoundaryAppliesPolicy :
    let a := lastLine .throughput
    let b := lastLine .tearfree
    let c : State := { b with ack := false }
    (a.inited && a.en && b.inited && b.en) = true ∧ a.sync = .scanning ∧ b.sync = .scanning ∧ b.ack = true ∧ c.ack = false ∧
    b.geom.linesPerFrame.toInt ≤ ((b.curCount + 1).toNat : Int) ∧
    (∃ t, exec (.line false false) a = .next t) ∧ (∃ t, exec (.line false false) b = .next t) ∧
    (∃ t, exec (.line false false) c = .next t) :=
  ⟨by decide, by decide, by decide, by decide, by decide, by decide, ⟨_, rfl⟩, ⟨_, rfl⟩, ⟨_, rfl⟩⟩

theorem witness_LineFrame :
    (scanning .throughput).inited = true ∧ (scanning .throughput).en = true ∧
    ∃ t, exec (.line true false) (scanning .throughput) = .next t := ⟨by decide, by decide, _, rfl⟩

theorem witness_LineCopiesRow :
    (rotated.inited && rotated.en) = true ∧ (rotated.recoverUnderrun true).sourceValid = true ∧
    (rotated.recoverUnderrun true).rowFits = true ∧ (rotated.recoverUnderrun false).sourceValid = true ∧
    (rotated.recoverUnderrun false).rowFits = true ∧ 1 < rotated.sourceCount ∧ 1 < rotated.scaleFactor := by decide

theorem witness_LineBlanksLine :
    let s := execAll [.line false false, .line true false, .line false false] scale1
    s.inited = true ∧ s.en = true ∧ s.curSrc.toInt = s.geom.validSpan.toInt ∧
    ¬ (s.fbValid s.front = true ∧ 0 ≤ s.curSrc.toInt ∧ s.curSrc.toInt < s.geom.validSpan.toInt) := by decide

theorem witness_AcceptedRowAlwaysFits :
    (scanning .throughput).Inv ∧ (scanning .throughput).en = true ∧
    ((scanning .throughput).recoverUnderrun true).sourceValid = true ∧
    ((scanning .throughput).recoverUnderrun false).sourceValid = true :=
  ⟨scanning_inv _, by decide, by decide, by decide⟩

/-- Two memories that differ in the first byte of the back frame. -/
theorem witness_LineNeverReadsBackFrame :
    (scanning .throughput).Inv ∧ (scanning .throughput).WindowsApart ∧ (scanning .throughput).en = true ∧
    ∃ m, m ≠ (scanning .throughput).mem ∧
      ∀ a, (a < fbAddr (scanning .throughput).par (!(scanning .throughput).front) 0 ∨
        fbAddr (scanning .throughput).par (!(scanning .throughput).front) (scanning .throughput).framePixels ≤ a) →
        Memory.load m a = (scanning .throughput).mem.load a := by
  have e : fbAddr (scanning .throughput).par (!(scanning .throughput).front) 0 = 0x20000000 := by decide
  have e2 : fbAddr (scanning .throughput).par (!(scanning .throughput).front) (scanning .throughput).framePixels = 0x20000018 := by
    decide
  refine ⟨scanning_inv _, by unfold State.WindowsApart; decide, by decide, (0x20000000, 7) :: (scanning .throughput).mem, by decide,
    fun a ha => ?_⟩
  rw [e, e2] at ha
  unfold Memory.load
  rw [List.find?_cons_of_neg]
  show ¬ ((0x20000000 == a) = true)
  simp only [beq_iff_eq]
  omega

/-- A part of a frame, and a whole one. -/
theorem witness_FrameIsItsCountOfLineEvents :
    (withSteps (scanning .tearfree) (lineEvents [false, true])).Inv ∧
    (withSteps (scanning .tearfree) (lineEvents [false, true, false])).Inv ∧
    (scanning .tearfree).en = true ∧ (scanning .tearfree).rstIn = false ∧ (scanning .tearfree).curCount = 0 ∧
    (scanning .tearfree).frameLength = [false, true, false].length ∧ [false, true].length < (scanning .tearfree).frameLength :=
  ⟨inv_withSteps _ _ (scanning_inv _), inv_withSteps _ _ (scanning_inv _), by decide, by decide, by decide, by decide, by decide⟩

/-- An underrun at the first event, and one that is followed by the rest of the frame. -/
theorem witness_UnderrunRestartsFrameAtLineOne :
    (withSteps (scanning .tearfree) (lineEvent false true :: lineEvents [] ++ [])).Inv ∧
    (withSteps (scanning .tearfree) (lineEvent false true :: lineEvents [true] ++ [])).Inv ∧
    (scanning .tearfree).en = true ∧ (scanning .tearfree).rstIn = false ∧ 2 ≤ (scanning .tearfree).frameLength ∧
    ([] : List Bool).length + 2 < (scanning .tearfree).frameLength ∧ [true].length + 2 = (scanning .tearfree).frameLength :=
  ⟨inv_withSteps _ _ (scanning_inv _), inv_withSteps _ _ (scanning_inv _), by decide, by decide, by decide, by decide, by decide⟩

theorem witness_EndlessUnderrunNeverEndsAFrame :
    (withSteps (scanning .tearfree) (underrunEvents [false, true, false, true, false] ++ [])).Inv ∧
    (scanning .tearfree).en = true ∧ (scanning .tearfree).rstIn = false ∧ 2 < (scanning .tearfree).frameLength :=
  ⟨inv_withSteps _ _ (scanning_inv _), by decide, by decide, by decide⟩

/-- A step that ends a frame without `ACK`, and a run of `EVT` words. -/
theorem witness_TearFreeHoldLastsUntilPublish :
    let e := withSteps { lastLine .tearfree with ack := false, fr := false } [lineEvent false false]
    let s := withSteps { lastLine .tearfree with ack := false } (eventWords [0xF#32, 0x2F#32, 0x0#32] ++ [.hostTurn])
    (∃ t, step e = .next t ∧ e.inited = true ∧ t.inited = true ∧ e.policy = .tearfree ∧ e.ack = false ∧ t.front = e.front ∧
      e.fr = false ∧ t.lastb = .hold) ∧
    s.policy = .tearfree ∧ s.ack = false ∧ s.schedule = eventWords [0xF#32, 0x2F#32, 0x0#32] ++ [.hostTurn] ∧
    ({ s with lastb := .hold } : State).lastb = .hold :=
  ⟨⟨_, rfl, by decide, by decide, by decide, by decide, by decide, by decide, by decide⟩, by decide, by decide, by decide, rfl⟩

/-! ### The hypotheses are met: handoff -/

theorem witness_AcquireReportsBackFrame : (session .throughput).inited = true ∧ s0.inited = false := by decide

/-- At once by policy, at once by signal, held, and refused. -/
theorem witness_PublishHandsOverBackFrame :
    let a : State := { session .throughput with fr := false }
    let b := session .tearfree
    let c : State := { session .tearfree with fr := false }
    (a.inited = true ∧ true = (!a.front) ∧ a.policy = .throughput) ∧ (b.inited = true ∧ true = (!b.front) ∧ b.fr = true) ∧
    (c.inited = true ∧ true = (!c.front) ∧ c.policy = .tearfree ∧ c.fr = false) ∧ (false = b.front ∧ s0.inited = false) := by decide

theorem witness_WaitVsyncConsumesFrameReady :
    (session .throughput).inited = true ∧ (session .throughput).fr = true ∧
    ({ session .throughput with fr := false } : State).inited = true ∧ s0.inited = false := by decide

theorem witness_PollVsyncNeverWaits : (session .throughput).inited = true ∧ s0.inited = false := by decide

/-- One line too few to end the frame, and the last line of the frame. -/
theorem witness_SecondPublishWaitsForOneFrame :
    (withSteps heldPublish (lineEvents [false, true] ++ .hostTurn :: [])).Inv ∧
    (withSteps heldPublish (lineEvents [false, true, false] ++ .hostTurn :: [])).Inv ∧
    heldPublish.en = true ∧ heldPublish.rstIn = false ∧ heldPublish.policy = .tearfree ∧ heldPublish.fr = false ∧
    heldPublish.ack = true ∧ heldPublish.pend = .publish ∧
    heldPublish.curCount.toNat + [false, true].length < heldPublish.frameLength ∧
    heldPublish.curCount.toNat + [false, true, false].length = heldPublish.frameLength :=
  ⟨inv_withSteps _ _ heldPublish_inv, inv_withSteps _ _ heldPublish_inv, by decide, by decide, by decide, by decide, by decide,
    by decide, by decide, by decide⟩

/-- The two deadlocks of R273: the display disabled, and `TEARFREE` with neither signal. -/
theorem witness_DeadlockedCommandStaysHeld :
    let a := withSteps (execAll [.waitVsync, .waitVsync] (session .throughput)) [.hostTurn, .evtWrite 0x0 4 0xF#32]
    let b := withSteps { heldPublish with ack := false } [.evtWrite 0x0 4 0xF#32, .hostTurn]
    (a.pend ≠ .none ∧ a.fr = false ∧ a.en = false ∧ AgentStep.rst true ∉ a.schedule) ∧
    (b.pend ≠ .none ∧ b.fr = false ∧ b.policy = .tearfree ∧ b.ack = false ∧ AgentStep.rst true ∉ b.schedule) ∧
    (∃ t, Host.Core.run core 2 a = .next t) ∧ (∃ t, Host.Core.run core 2 b = .next t) :=
  ⟨by decide, by decide, ⟨_, rfl⟩, ⟨_, rfl⟩⟩

theorem witness_FrontChangesOnlyInHandoff :
    let s := withSteps (session .throughput) [writeCmd (.publish true)]
    ∃ t, step s = .next t ∧ s.inited = true ∧ t.inited = true ∧ t.front ≠ s.front := ⟨_, rfl, by decide, by decide, by decide⟩

/-- A boundary that gives `FR`, and a handoff that gives `ACK`. -/
theorem witness_OneSetterPerSignal :
    let s := withSteps { lastLine .throughput with fr := false } [lineEvent false false]
    let r := withSteps { session .throughput with ack := false } [writeCmd (.publish true)]
    (∃ t, step s = .next t ∧ s.inited = true ∧ t.inited = true ∧ s.fr = false ∧ t.fr = true) ∧
    (∃ t, step r = .next t ∧ r.inited = true ∧ t.inited = true ∧ r.ack = false ∧ t.ack = true) :=
  ⟨⟨_, rfl, by decide, by decide, by decide, by decide⟩, ⟨_, rfl, by decide, by decide, by decide, by decide⟩⟩

/-! ### The hypotheses are met: lifecycle, errors, invariants -/

theorem witness_InitBeginsSession :
    (Instr.init .tearfree 8191 8191).wf = true ∧ s0.inited = false ∧ s0.allocOk = true ∧
    calcGeom 8191 8191 s0.par.pw s0.par.ph s0.scale.toNat s0.rot = some (geomPlain 8191 8191 8 6 1) := by decide

theorem witness_InitFailuresChangeOnlyResult :
    (Instr.init .tearfree 4 3).wf = true ∧ (Instr.init .tearfree 0 3).wf = true ∧ (session .tearfree).inited = true ∧
    s0.inited = false ∧ calcGeom 0 3 s0.par.pw s0.par.ph s0.scale.toNat s0.rot = none ∧
    calcGeom 4 3 s0.par.pw s0.par.ph s0.scale.toNat s0.rot ≠ none ∧ ({ s0 with allocOk := false } : State).allocOk = false := by decide

theorem witness_EnableAndDisable :
    ((session .tearfree).inited && (session .tearfree).geomValid && !(session .tearfree).en) = true ∧
    ((scanning .tearfree).inited && (scanning .tearfree).geomValid && (scanning .tearfree).en) = true ∧ s0.inited = false ∧
    (execAll [.setXform 2 false] (session .tearfree)).geomValid = false := by decide

theorem witness_TeardownReversesInit :
    ((session .tearfree).inited = true ∧ (session .tearfree).en = false) ∧ s0.inited = false ∧ (scanning .tearfree).en = true := by
  decide

theorem session_inv : (execAll [.disable] (scanning .tearfree)).Inv where
  params := by decide
  enabled := by decide
  idle := fun h => absurd h (by decide)
  session := by decide
  geometry := fun _ => ⟨by decide, geomPlain 4 3 8 6 2, by decide, by decide⟩
  cursor := fun _ => by
    unfold State.CursorInFrame
    decide
  held := by decide
  heldPublish := by decide
  scanning := by decide
  rearm := by decide

/-- At the offsets on either side of those left out. -/
theorem witness_TeardownLeavesResetRegisters :
    let s := execAll [.disable] (scanning .tearfree)
    s.Inv ∧ s.pend = .none ∧ s.inited = true ∧ s.en = false ∧ (∃ t, exec .teardown s = .next t) ∧
    (0x44 : Nat) ≠ 0x04 ∧ (0x44 : Nat) ≠ 0x14 ∧ (0x44 : Nat) ≠ 0x48 :=
  ⟨session_inv, by decide, by decide, by decide, ⟨_, rfl⟩, by decide, by decide, by decide⟩

theorem witness_SetBacklightIgnoresOutOfRange :
    ((Instr.setBacklight 100).wf = true ∧ 100 ≤ 100) ∧ ((Instr.setBacklight 101).wf = true ∧ 100 < 101) := by decide

theorem witness_EveryCommandGivesItsCode :
    (Instr.acquire.port = .cmd ∧ Instr.acquire.wf = true ∧ ¬ isHeldBy .acquire s0) ∧
    ((Instr.publish true).port = .cmd ∧ isHeldBy (.publish true) { session .tearfree with fr := false }) ∧
    isHeldBy .waitVsync { session .throughput with fr := false } :=
  ⟨⟨rfl, rfl, fun h => absurd h.1 (by decide)⟩,
    ⟨rfl, by decide, by decide, .inr ⟨true, rfl, by decide, by decide⟩⟩, by decide, by decide, .inl rfl⟩

/-- A refused command, and a `RECOMPUTE` with a configuration error. -/
theorem witness_FailedCommandChangesOnlyResult :
    let s := execAll [.setXform 0 false] (session .tearfree)
    (∃ t, exec .acquire s0 = .next t ∧ t.result.code ≠ .ok) ∧ ¬ isHeldBy .acquire s0 ∧
    (∃ t, exec .recompute s = .next t ∧ t.result.code = .errConfig) ∧ ¬ isHeldBy .recompute s :=
  ⟨⟨_, rfl, by decide⟩, fun h => absurd h.1 (by decide), ⟨_, rfl, by decide⟩,
    fun h => h.2.2.elim (fun e => by cases e) (fun ⟨_, e, _⟩ => by cases e)⟩

theorem witness_CommandsLeaveEngineStateWhileEnabled :
    (Instr.publish true).port = .cmd ∧ (scanning .tearfree).inited = true ∧ (scanning .tearfree).en = true ∧
    ∃ t, exec (.publish true) (scanning .tearfree) = .next t := ⟨rfl, by decide, by decide, _, rfl⟩

theorem witness_ResetMeetsInvariants : small.Valid ∧ tight.Valid ∧ (session .throughput).par = small ∧
    State.reset.par = Config.params := by decide

theorem witness_StepKeepsInvariants :
    (withSteps (scanning .tearfree) [lineEvent true true]).Inv ∧
    ∃ t, step (withSteps (scanning .tearfree) [lineEvent true true]) = .next t := ⟨inv_withSteps _ _ (scanning_inv _), _, rfl⟩

theorem witness_StepKeepsMemoriesCanonical :
    let s := withSteps (filled (scanning .tearfree) [0x1234]) [lineEvent true false]
    s.Canonical ∧ ∃ t, step s = .next t := ⟨⟨by decide, by decide⟩, _, rfl⟩

/-- With both line buffers written by the zero fill: a line event, and a pixel written to the back frame. -/
theorem witness_StepKeepsViewsAgreeing :
    let s := withSteps (scanning .tearfree) [lineEvent true false]
    let u := withSteps (scanning .tearfree) [.fbWrite true 11 0x1234]
    (s.WindowsApart ∧ s.ViewsAgree ∧ ∃ t, step s = .next t) ∧ (u.WindowsApart ∧ u.ViewsAgree ∧ ∃ t, step u = .next t) := by
  have e : (scanning .tearfree).mem = (scanning .tearfree).lbEng := by decide
  have w : (scanning .tearfree).WindowsApart := by
    unfold State.WindowsApart
    decide
  have v : (scanning .tearfree).ViewsAgree := fun b a _ _ => by rw [e]
  exact ⟨⟨w, v, _, rfl⟩, w, v, _, rfl⟩

theorem scale1_inv : scale1.Inv where
  params := by decide
  enabled := by decide
  idle := fun h => absurd h (by decide)
  session := by decide
  geometry := fun _ => ⟨by decide, geomPlain 4 3 8 6 1, by decide, by decide⟩
  cursor := fun _ => by
    unfold State.CursorInFrame
    decide
  held := by decide
  heldPublish := by decide
  scanning := by decide
  rearm := by decide

/-- A picture with margins on both sides. -/
theorem witness_StepKeepsMarginsBlack :
    let s := withSteps scale1 [lineEvent true false]
    s.Inv ∧ s.MarginsBlack ∧ (∀ e rest, s.schedule = e :: rest → e.isLineBufferWrite = false) ∧ (∃ t, step s = .next t) ∧
    s.dstFirst = 2 := by
  refine ⟨inv_withSteps _ _ scale1_inv, ?_, ?_, ⟨_, rfl⟩, by decide⟩
  · intro _ b x hx _
    have hx' : x < 8 := hx
    revert hx'
    have h : ∀ b : Bool, ∀ x < 8, (withSteps scale1 [lineEvent true false]).enginePixel? b x = some 0x0000 := by decide
    exact h b x
  · intro e rest h
    cases h
    rfl

/-- For each access, the last pixel that exists and the first that does not; and no frame exists outside a session. -/
theorem witness_OnlyPixelAccessesFault :
    let s := withSteps (scanning .tearfree)
    (s [.fbWrite true 11 0x1234]).schedule = .fbWrite true 11 0x1234 :: [] ∧
    (step (s [.fbWrite true 12 0]) = .fault (.noFramePixel true 12) ∧ ∃ t, step (s [.fbWrite true 11 0]) = .next t) ∧
    (step (s [.fbRead false 12]) = .fault (.noFramePixel false 12) ∧ ∃ t, step (s [.fbRead false 11]) = .next t) ∧
    (step (s [.lbWrite true 8 0]) = .fault (.noLinePixel true 8) ∧ ∃ t, step (s [.lbWrite true 7 0]) = .next t) ∧
    (step (s [.lbRead false 8]) = .fault (.noLinePixel false 8) ∧ ∃ t, step (s [.lbRead false 7]) = .next t) ∧
    step (withSteps s0 [.fbRead false 0]) = .fault (.noFramePixel false 0) :=
  ⟨rfl, ⟨rfl, _, rfl⟩, ⟨rfl, _, rfl⟩, ⟨rfl, _, rfl⟩, ⟨rfl, _, rfl⟩, rfl⟩

/-- The byte order of 20_memory.md R67: the low byte at the even address; a read gives the pixel back. -/
theorem test_pixel_byte_order :
    let t := after (step (withSteps (session .throughput) [.fbWrite true 1 0x1234]))
    t.mem.load (t.par.fb1Base + 2) = some 0x34 ∧ t.mem.load (t.par.fb1Base + 3) = some 0x12 ∧
    (after (step (withSteps t [.fbRead true 1]))).bus = 0x1234 := by decide

end Sys2Proof.Tests
end

section
/-! PROOFS of 30_encoding.md, the opcode map. The decoder reads `OP` and the format's reserved bits; a row of the opcode map tests the same bits by its mask.
Both sides are brought to that common form, `field w 0 4` and `ReservedClear`, and compared there. -/

namespace Sys2Proof.OpcodeMapProof

open Sys2Proof

/-- A field's value, bit by bit. -/
theorem field_eq_iff (w : Word) (lo n k : Nat) (hk : k < 2 ^ n) :
    field w lo n = k ↔ ∀ i < n, w.getLsbD (lo + i) = k.testBit i := by
  have bit : ∀ i, (field w lo n).testBit i = (decide (i < n) && w.getLsbD (lo + i)) := by
    intro i
    rw [field, BitVec.testBit_toNat, BitVec.getLsbD_extractLsb']
  constructor
  · intro h i hi
    rw [← h, bit]
    simp [hi]
  · intro h
    apply Nat.eq_of_testBit_eq
    intro i
    rw [bit]
    by_cases hi : i < n
    · simp [hi, h i hi]
    · have : k.testBit i = false :=
        Nat.testBit_lt_two_pow (lt_of_lt_of_le hk (Nat.pow_le_pow_right (by decide) (by omega)))
      simp [hi, this]

/-- The first reserved bit of the format of an `OP`: every bit from there up is reserved (30_encoding.md R92 to R97). -/
def reservedLow : Nat → Nat
  | 0x1 => 31
  | 0x3 => 7
  | 0x7 => 5
  | 0xA => 12
  | 0xF => 6
  | _ => 4

/-- The reserved bits of the format that a word's `OP` names are 0. -/
def ReservedClear (w : Word) : Prop :=
  field w (reservedLow (field w 0 4)) (32 - reservedLow (field w 0 4)) = 0

/-! #### What a row tests -/

/-- A row's value is its `OP` alone, and its mask covers `OP` and the reserved bits of that `OP`'s format. -/
theorem row_shape : ∀ r ∈ opcodeMap, r.value.toNat < 2 ^ 4 ∧ 4 ≤ reservedLow r.value.toNat ∧
    ∀ i < 32, r.mask.getLsbD i = (decide (i < 4) || decide (reservedLow r.value.toNat ≤ i)) := by
  decide

/-- A masked comparison of `OP` and of the bits from `lo` up is a test of two fields. -/
theorem and_mask_eq_iff (w m v : Word) (lo : Nat) (hv : v.toNat < 2 ^ 4) (hlo : 4 ≤ lo)
    (hm : ∀ i < 32, m.getLsbD i = (decide (i < 4) || decide (lo ≤ i))) :
    w &&& m = v ↔ field w 0 4 = v.toNat ∧ field w lo (32 - lo) = 0 := by
  have high : ∀ i, 4 ≤ i → v.getLsbD i = false := fun i hi =>
    Nat.testBit_lt_two_pow (lt_of_lt_of_le hv (Nat.pow_le_pow_right (by decide) hi))
  rw [field_eq_iff w 0 4 _ hv, field_eq_iff w lo _ 0 (by positivity)]
  simp only [Nat.zero_add, Nat.zero_testBit, BitVec.testBit_toNat]
  constructor
  · intro h
    have bit : ∀ i < 32, (w.getLsbD i && (decide (i < 4) || decide (lo ≤ i))) = v.getLsbD i := by
      intro i hi
      rw [← hm i hi, ← BitVec.getLsbD_and, h]
    constructor
    · intro i hi
      simpa [hi] using bit i (by omega)
    · intro i hi
      simpa [high (lo + i) (by omega)] using bit (lo + i) (by omega)
  · rintro ⟨hop, hres⟩
    apply BitVec.eq_of_getLsbD_eq
    intro i hi
    rw [BitVec.getLsbD_and, hm i hi]
    by_cases h4 : i < 4
    · simp [h4, hop i h4]
    · rw [high i (by omega)]
      by_cases hl : lo ≤ i
      · have := hres (i - lo) (by omega)
        rw [Nat.add_sub_cancel' hl] at this
        simp [this]
      · simp [h4, hl]

/-- A word selects a row exactly when it has the row's `OP` and its reserved bits are 0. -/
theorem selects_iff {r : OpcodeRow} (hr : r ∈ opcodeMap) (w : Word) :
    r.selects w = true ↔ field w 0 4 = r.value.toNat ∧ ReservedClear w := by
  obtain ⟨hv, hlo, hm⟩ := row_shape r hr
  rw [OpcodeRow.selects, beq_iff_eq, and_mask_eq_iff w _ _ _ hv hlo hm, ReservedClear]
  exact and_congr_right fun hop => by rw [hop]

/-- No two rows have the same `OP`. -/
theorem opcodes_distinct : opcodeMap.Pairwise (fun r q => r.value.toNat ≠ q.value.toNat) := by decide

/-! #### What the decoder tests -/

/-- The row's name and port are the operation's. -/
def Names (r : OpcodeRow) (i : Instr) : Prop := r.mnemonic = i.mnemonic ∧ r.port = i.port

/-- A decoded word has its reserved bits 0, and its `OP` is that of a row that names the operation. -/
theorem row_of_decodeWord {w : Word} {i : Instr} (h : decodeWord w = .ok i) :
    ReservedClear w ∧ ∃ r ∈ opcodeMap, r.value.toNat = field w 0 4 ∧ Names r i := by
  unfold decodeWord decodeZ at h
  unfold ReservedClear
  split at h
  -- The last arm of the decoder's match is an `OP` of no operation; the others differ only in their format.
  case h_13 => cases h
  all_goals
    rename_i hop
    split at h <;> cases h
    rename_i hres
    rw [hop]
    exact ⟨hres, by simp [opcodeMap, Names, Instr.mnemonic, Instr.port]⟩

/-- A word with the `OP` of a row and its reserved bits 0 decodes to an operation the row names. -/
theorem decodeWord_of_row {r : OpcodeRow} (hr : r ∈ opcodeMap) {w : Word} (hop : field w 0 4 = r.value.toNat)
    (hres : ReservedClear w) : ∃ i, decodeWord w = .ok i ∧ Names r i := by
  unfold ReservedClear at hres
  rw [hop] at hres
  unfold decodeWord decodeZ
  simp only [opcodeMap, List.mem_cons, List.not_mem_nil, or_false] at hr
  rcases hr with rfl | rfl | rfl | rfl | rfl | rfl | rfl | rfl | rfl | rfl | rfl | rfl
  all_goals
    simp only [reservedLow, BitVec.reduceToNat, Nat.reduceSub] at hop hres
    simp [hop, hres, Names, Instr.mnemonic, Instr.port]

/-- A port's decoder accepts the operations of that port. -/
theorem decode_eq_ok_iff (p : Port) (w : Word) (i : Instr) :
    decode p w = .ok i ↔ decodeWord w = .ok i ∧ i.port = p := by
  unfold decode
  cases decodeWord w with
  | error e => simp
  | ok j =>
    by_cases hp : j.port = p
    · simp only [hp, if_true, Except.ok.injEq]
      exact ⟨fun h => ⟨h, h ▸ hp⟩, fun h => h.1⟩
    · simp only [hp, if_false, reduceCtorEq, Except.ok.injEq, false_iff]
      rintro ⟨rfl, h⟩
      exact hp h

/-- Settles O3: the decoder and the rows test the same two fields. -/
theorem decodeFollowsOpcodeMap : Obligations.DecodeFollowsOpcodeMap := by
  refine ⟨?decoded, ?selected, ?disjoint⟩
  case decoded =>
    intro p w i h
    obtain ⟨hw, rfl⟩ := (decode_eq_ok_iff p w i).mp h
    obtain ⟨hres, r, hr, hop, hname, hport⟩ := row_of_decodeWord hw
    exact ⟨r, hr, hname, hport, (selects_iff hr w).mpr ⟨hop.symm, hres⟩⟩
  case selected =>
    intro r hr w hsel
    obtain ⟨hop, hres⟩ := (selects_iff hr w).mp hsel
    obtain ⟨i, hw, hname, hport⟩ := decodeWord_of_row hr hop hres
    exact ⟨i, (decode_eq_ok_iff r.port w i).mpr ⟨hw, hport.symm⟩, hname.symm⟩
  case disjoint =>
    refine opcodes_distinct.imp_of_mem ?_
    rintro r q hr hq hne w ⟨hselr, hselq⟩
    obtain ⟨hopr, -⟩ := (selects_iff hr w).mp hselr
    obtain ⟨hopq, -⟩ := (selects_iff hq w).mp hselq
    exact hne (hopr.symm.trans hopq)

end Sys2Proof.OpcodeMapProof
end

section
/-! PROOFS of 41_scanout.md, acceptance and what a line shows. An accepted `LINE` is one line write, of the replicated row or of a blank run; every
pixel of the run written is in both views afterwards, since nothing after the write touches the memories. -/

namespace Sys2Proof.ScanoutProof

open Sys2Proof
open Sys2Proof.Machine

/-! #### Underrun recovery moves the cursor and nothing the copied row is read through -/

@[simp] theorem recoverUnderrun_fbValid (s : State) (ur f : Bool) : (s.recoverUnderrun ur).fbValid f = s.fbValid f := by
  simp [State.fbValid]

@[simp] theorem recoverUnderrun_framePixel (s : State) (ur f : Bool) (i : Nat) :
    (s.recoverUnderrun ur).framePixel f i = s.framePixel f i := by
  simp [State.framePixel, State.byteAt]

@[simp] theorem recoverUnderrun_sourceCount (s : State) (ur : Bool) : (s.recoverUnderrun ur).sourceCount = s.sourceCount := by
  simp [State.sourceCount]

@[simp] theorem recoverUnderrun_scaleFactor (s : State) (ur : Bool) : (s.recoverUnderrun ur).scaleFactor = s.scaleFactor := by
  simp [State.scaleFactor]

@[simp] theorem recoverUnderrun_dstFirst (s : State) (ur : Bool) : (s.recoverUnderrun ur).dstFirst = s.dstFirst := by
  simp [State.dstFirst]

/-! #### Which run of pixels a line writes -/

/-- The span test of 41_scanout.md R153. -/
theorem sourceValid_iff (s : State) :
    s.sourceValid = true ↔ s.fbValid s.front = true ∧ 0 ≤ s.curSrc.toInt ∧ s.curSrc.toInt < s.geom.validSpan.toInt := by
  simp [State.sourceValid, and_assoc]

theorem produceLine_of_copied (s : State) (b : Bool) (hv : s.sourceValid = true) (hf : s.rowFits = true) :
    s.produceLine b = s.lineWrite b s.dstFirst (replicatePixels s.scaleFactor s.sourceRun) := by
  simp [State.produceLine, hv, hf]

theorem produceLine_of_not_sourceValid (s : State) (b : Bool) (hv : ¬ s.sourceValid = true) :
    s.produceLine b = s.lineWrite b 0 (blankRun s.par.pw) := by
  simp [State.produceLine, hv, State.blankLine]

theorem sourceRun_getElem? (s : State) (j : Nat) (hj : j < s.sourceCount) :
    s.sourceRun[j]? = some (s.framePixel s.front (s.sourceIndex j).toNat) := by
  simp [State.sourceRun, hj]

/-- Pixel `j * S + r` of the row written is source pixel `j` (41_scanout.md R154, R163). -/
theorem copiedRow_getElem? (s : State) (j r : Nat) (hj : j < s.sourceCount) (hr : r < s.scaleFactor) :
    (replicatePixels s.scaleFactor s.sourceRun)[j * s.scaleFactor + r]? =
      some (s.framePixel s.front (s.sourceIndex j).toNat) := by
  rw [replicatePixels_getElem? _ _ _ _ hr, sourceRun_getElem? s j hj]

theorem blankRun_getElem? (n k : Nat) (hk : k < n) : (blankRun n)[k]? = some 0x0000 := by
  simp [blankRun, hk]

/-! #### What the two views hold after a line -/

/-- Every pixel of a run written to a line buffer is in the engine's view, and within a session in the display's. -/
theorem lineWrite_pixel (s : State) (b : Bool) (x k : Nat) (vs : List Pixel) (v : Pixel) (h : vs[k]? = some v) :
    (s.lineWrite b x vs).enginePixel? b (x + k) = some v ∧
    (s.inited = true → (s.lineWrite b x vs).devicePixel b (x + k) = v) := by
  obtain ⟨hk, rfl⟩ := List.getElem?_eq_some_iff.mp h
  have hload := State.load_lineWrite_pixel s b x vs k hk
  rw [← State.lineWrite_par s b x vs] at hload
  simpa using State.pixel_of_load (s.lineWrite b x vs) b (x + k) vs[k] hload

/-- After its line write a `LINE` changes neither view of the line buffers. -/
theorem scanLine_pixel (s : State) (buf ur b : Bool) (x : Nat) :
    (s.scanLine buf ur).enginePixel? b x = ((s.recoverUnderrun ur).produceLine buf).enginePixel? b x ∧
    (s.scanLine buf ur).devicePixel b x = ((s.recoverUnderrun ur).produceLine buf).devicePixel b x := by
  obtain ⟨hmem, heng⟩ := State.scanLine_mem s buf ur
  simp [State.enginePixel?, State.devicePixel, State.byteAt, hmem, heng]

/-- The next state of a `LINE`, accepted or not (41_scanout.md R151). -/
theorem exec_line (s : State) (buf ur : Bool) :
    exec (.line buf ur) s = .next (if s.inited && s.en then s.scanLine buf ur else s) := execLine_eq buf ur s

/-- An accepted `LINE` completes, and both views hold the run of pixels its line write stores. -/
theorem exec_line_shows (s : State) (buf ur : Bool) (hi : s.inited = true) (he : s.en = true) (x : Nat) (vs : List Pixel)
    (hw : (s.recoverUnderrun ur).produceLine buf = (s.recoverUnderrun ur).lineWrite buf x vs) :
    ∃ t, exec (.line buf ur) s = .next t ∧
      ∀ k v, vs[k]? = some v → t.enginePixel? buf (x + k) = some v ∧ t.devicePixel buf (x + k) = v := by
  refine ⟨s.scanLine buf ur, by simp [exec_line, hi, he], fun k v hk => ?_⟩
  obtain ⟨hscanE, hscanD⟩ := scanLine_pixel s buf ur buf (x + k)
  obtain ⟨heng, hdev⟩ := lineWrite_pixel (s.recoverUnderrun ur) buf x k vs v hk
  rw [hscanE, hscanD, hw]
  exact ⟨heng, hdev (by simpa using hi)⟩

/-! #### The statements -/

/-- Settles O26: the branch of `LINE` that is not accepted. -/
theorem lineIgnoredUnlessArmed : Obligations.LineIgnoredUnlessArmed := by
  intro s buf ur h
  rw [exec_line, if_neg (by simpa using h)]

/-- Settles O30: the run written is the replicated row, read through the recovered cursor. -/
theorem lineCopiesRow : Obligations.LineCopiesRow := by
  intro s buf ur hi he hv hf
  obtain ⟨t, ht, hshows⟩ := exec_line_shows s buf ur hi he _ _ (produceLine_of_copied _ buf hv hf)
  refine ⟨t, ht, fun j r hj hr => ?_⟩
  have hpix := hshows _ _ (copiedRow_getElem? (s.recoverUnderrun ur) j r (by simpa using hj) (by simpa using hr))
  simpa [State.sourceIndex, Nat.add_assoc] using hpix

/-- Settles O31: a cursor that fails the test makes the run written blank, over the whole line. -/
theorem lineBlanksLine : Obligations.LineBlanksLine := by
  intro s buf ur hi he hout
  have hv : ¬ (s.recoverUnderrun ur).sourceValid = true := by
    rw [sourceValid_iff]
    simpa using hout _ rfl
  obtain ⟨t, ht, hshows⟩ := exec_line_shows s buf ur hi he _ _ (produceLine_of_not_sourceValid _ buf hv)
  refine ⟨t, ht, fun x hx => ?_⟩
  simpa using hshows x _ (blankRun_getElem? _ x (by simpa using hx))

end Sys2Proof.ScanoutProof
end

section
/-! PROOFS of 42_synchronizer.md, the frame boundary. Whether an accepted `LINE` ends its frame is a test on the state before
it (`State.frameDone_scan`); what the boundary does to the two signals and `LASTB` is then one lemma per branch of the policy. -/

namespace Sys2Proof.SynchronizerProof

open Sys2Proof
open Sys2Proof.Machine

/-- The line about to be scanned is the last one of its frame (41_scanout.md R157, R158). -/
def EndsFrame (s : State) (ur : Bool) : Prop :=
  s.geom.linesPerFrame.toInt ≤ (((if ur then 1 else s.curCount) + 1 : Word).toNat : Int)

/-- `EndsFrame` is the engine's own end-of-frame test. -/
theorem frameDone_iff_endsFrame (s : State) (buf ur : Bool) :
    ((s.recoverUnderrun ur).produceLine buf).advanceCursor.frameDone = true ↔ EndsFrame s ur := by
  rw [State.frameDone_scan, decide_eq_true_iff, EndsFrame]

/-- An accepted `LINE` has one next state. -/
theorem eq_scanLine_of_exec_line {s t : State} {buf ur : Bool} (hi : s.inited = true) (he : s.en = true)
    (h : exec (.line buf ur) s = .next t) : t = s.scanLine buf ur := by
  simpa [ScanoutProof.exec_line, hi, he] using h.symm

/-- Within the one `LINE` step the synchronizer comes back to `SCANNING` (42_synchronizer.md R178). -/
theorem scanLine_sync_of_scanning {s : State} (buf ur : Bool) (h : s.sync = .scanning) :
    (s.scanLine buf ur).sync = .scanning := by
  rw [State.scanLine_sync, h, ite_self]

/-- A line that ends no frame leaves both signals and `LASTB`. -/
theorem scanLine_signals_of_not_endsFrame {s : State} (buf : Bool) {ur : Bool} (h : ¬ EndsFrame s ur) :
    (s.scanLine buf ur).fr = s.fr ∧ (s.scanLine buf ur).ack = s.ack ∧ (s.scanLine buf ur).lastb = s.lastb := by
  simp [frameDone_iff_endsFrame, h]

section Boundary

variable {s : State} (buf : Bool) {ur : Bool} (hend : EndsFrame s ur)
include hend

/-- Branch `SIGNAL_READY` without a condition: `FR` is given, `ACK` is not looked at (42_synchronizer.md R173). -/
theorem scanLine_signals_of_throughput (hp : s.policy = .throughput) :
    (s.scanLine buf ur).fr = true ∧ (s.scanLine buf ur).ack = s.ack ∧ (s.scanLine buf ur).lastb = .signalReady := by
  simp [frameDone_iff_endsFrame, hend, hp]

/-- Branch `SIGNAL_READY` on an acknowledgement: `ACK` is taken, `FR` is given (42_synchronizer.md R174). -/
theorem scanLine_signals_of_tearfree_ack (hp : s.policy = .tearfree) (ha : s.ack = true) :
    (s.scanLine buf ur).fr = true ∧ (s.scanLine buf ur).ack = false ∧ (s.scanLine buf ur).lastb = .signalReady := by
  simp [frameDone_iff_endsFrame, hend, hp, ha]

/-- Branch `HOLD`: there is no acknowledgement to take, and `FR` keeps its value (42_synchronizer.md R175). -/
theorem scanLine_signals_of_tearfree_hold (hp : s.policy = .tearfree) (ha : s.ack = false) :
    (s.scanLine buf ur).fr = s.fr ∧ (s.scanLine buf ur).ack = false ∧ (s.scanLine buf ur).lastb = .hold := by
  simp [frameDone_iff_endsFrame, hend, hp, ha]

end Boundary

/-- Settles O28: the three branches of the boundary, and a line inside its frame. -/
theorem frameBoundaryAppliesPolicy : Obligations.FrameBoundaryAppliesPolicy := by
  intro s buf ur t hi he hsync h count
  obtain rfl := eq_scanLine_of_exec_line hi he h
  refine ⟨scanLine_sync_of_scanning buf ur hsync, ?_⟩
  split
  next hend =>
    split
    next hp => exact scanLine_signals_of_throughput buf hend hp
    next hp ha => exact scanLine_signals_of_tearfree_ack buf hend hp ha
    next hp ha => exact scanLine_signals_of_tearfree_hold buf hend hp ha
  next hinside => exact scanLine_signals_of_not_endsFrame buf hinside

end Sys2Proof.SynchronizerProof
end

section
/-! PROOFS of 44_lifecycle.md, words that are no operation of their port. The decoder accepts on a port only words that select a row of the opcode
map with that port (`OpcodeMapProof.decodeFollowsOpcodeMap`); what is left is what each port does with a word it cannot decode. -/

namespace Sys2Proof.LifecycleProof

open Sys2Proof
open Sys2Proof.Machine

/-- A word selects no row that the opcode map gives to the port (30_encoding.md R99, R100). -/
def SelectsNoRow (p : Port) (w : Word) : Prop := ∀ r ∈ opcodeMap, r.port = p → r.selects w = false

/-- A word that selects no row of a port does not decode there (30_encoding.md R100, R105). -/
theorem decode_error_of_selectsNoRow {p : Port} {w : Word} (h : SelectsNoRow p w) : ∃ e, decode p w = .error e := by
  cases hd : decode p w with
  | error e => exact ⟨e, rfl⟩
  | ok i =>
    obtain ⟨hdecoded, -, -⟩ := OpcodeMapProof.decodeFollowsOpcodeMap
    obtain ⟨r, hr, -, hport, hsel⟩ := hdecoded p w i hd
    exact absurd hsel (by simp [h r hr hport])

/-- `LINE` is the one row of the event port (30_encoding.md R99). -/
theorem evtRow_value_mask : ∀ r ∈ opcodeMap, r.port = .evt → r.value = 0x0000000F#32 ∧ r.mask = 0xFFFFFFCF#32 := by
  decide

/-- A word that fails the mask test of 44_lifecycle.md R222 selects no row of the event port. -/
theorem selectsNoRow_evt {w : Word} (hw : w &&& 0xFFFFFFCF#32 ≠ 0x0000000F#32) : SelectsNoRow .evt w := by
  intro r hr hport
  obtain ⟨hvalue, hmask⟩ := evtRow_value_mask r hr hport
  rw [OpcodeRow.selects, hvalue, hmask]
  exact beq_false_of_ne hw

/-! #### What a port does with a word it cannot decode -/

/-- A free command port with no write waiting takes the word at once (30_encoding.md R102). -/
theorem cmdWrite_of_free (w : Word) {s : State} (hp : s.pend = .none) (hst : s.stalled = []) : cmdWrite w s = issue w s := by
  simp [cmdWrite, hp, hst]

/-- A word that selects no CMD row completes with `ERR_UNSUPPORTED`, whatever the state. -/
theorem issue_of_selectsNoRow {w : Word} (h : SelectsNoRow .cmd w) (s : State) :
    issue w s = complete s .errUnsupported false := by
  obtain ⟨e, he⟩ := decode_error_of_selectsNoRow h
  rw [issue, he]

/-- The event port ignores a word that selects no row of its own. -/
theorem evtWrite_of_selectsNoRow {w : Word} (h : SelectsNoRow .evt w) (s : State) : evtWrite w s = .next s := by
  obtain ⟨e, he⟩ := decode_error_of_selectsNoRow h
  rw [evtWrite, he]

/-- While `rst` is asserted a write to `EVT` is dropped, whatever its word (log 10). -/
theorem perform_evtWrite_of_rst (w : Word) {s : State} (hr : s.rstIn = true) :
    perform (.evtWrite 0x0 4 w) s = .next s := by
  simp [perform, hr]

/-- A write to `EVT` of a word that selects no row of that port changes nothing, with `rst` asserted or not. -/
theorem perform_evtWrite_of_selectsNoRow {w : Word} (h : SelectsNoRow .evt w) (s : State) :
    perform (.evtWrite 0x0 4 w) s = .next s := by
  cases hr : s.rstIn with
  | true => exact perform_evtWrite_of_rst w hr
  | false => rw [perform_evtWrite w s hr, evtWrite_of_selectsNoRow h]

/-- The event block does not show the schedule. -/
theorem evtReg_schedule (s : State) (rest : List AgentStep) (off : Nat) :
    ({ s with schedule := rest } : State).evtReg off = s.evtReg off := rfl

/-! #### The statements -/

/-- Settles O6: a free port issues the word at once, and no word without a CMD row reaches `exec`. -/
theorem reservedCommandWordIsRefused : Obligations.ReservedCommandWordIsRefused := by
  intro s w rest hs hr hp hst hrow
  calc step s
      = perform (.hostWrite 0x0 4 w) { s with schedule := rest } := step_cons s _ rest hs
    _ = cmdWrite w { s with schedule := rest } := perform_cmdWrite w _ hr
    _ = issue w { s with schedule := rest } := cmdWrite_of_free w hp hst
    _ = complete { s with schedule := rest } .errUnsupported false := issue_of_selectsNoRow hrow _
    _ = .next { s with schedule := rest, result := ⟨.errUnsupported, false⟩ } := rfl

/-- Settles O7: the mask test is the test of the one EVT row, and a word without an EVT row is ignored. -/
theorem invalidEventWordIsIgnored : Obligations.InvalidEventWordIsIgnored := by
  intro s w rest hs hw
  refine ⟨?ignored, fun h => (evtReg_schedule s rest 0x4).trans h⟩
  case ignored => rw [step_cons s _ rest hs, perform_evtWrite_of_selectsNoRow (selectsNoRow_evt hw)]

end Sys2Proof.LifecycleProof
end


section
/-! PROOFS of 30_encoding.md, the round trips. A word is the union of its fields put back in place (`place_field_split`), and a field of a
union of placed numbers is the number placed there (`field_place`); each format then only names its fields. -/

namespace Sys2Proof.EncodingProof

open Sys2Proof
open Sys2Proof.OpcodeMapProof (decode_eq_ok_iff)

/-! #### Fields of a word -/

theorem testBit_field (w : Word) (lo n i : Nat) :
    (field w lo n).testBit i = (decide (i < n) && w.getLsbD (lo + i)) := by
  rw [field, BitVec.testBit_toNat, BitVec.getLsbD_extractLsb']

theorem field_lt (w : Word) (lo n : Nat) : field w lo n < 2 ^ n := BitVec.isLt _

theorem field_or (x y : Word) (lo n : Nat) : field (x ||| y) lo n = field x lo n ||| field y lo n := by
  apply Nat.eq_of_testBit_eq
  intro i
  rw [Nat.testBit_or, testBit_field, testBit_field, testBit_field, BitVec.getLsbD_or, Bool.and_or_distrib_left]

/-- The field a number was placed in holds the number. -/
theorem field_place {v lo n : Nat} (hv : v < 2 ^ n) (hn : lo + n ≤ 32) : field (place v lo) lo n = v := by
  apply Nat.eq_of_testBit_eq
  intro i
  rw [testBit_field, Laws.getLsbD_place]
  by_cases hi : i < n
  · simp [hi, show lo + i < 32 by omega]
  · have : v.testBit i = false :=
      Nat.testBit_lt_two_pow (lt_of_lt_of_le hv (Nat.pow_le_pow_right (by decide) (by omega)))
    simp [hi, this]

/-- A field below the one a number was placed in is 0. -/
theorem field_place_below {v lo' lo n : Nat} (h : lo + n ≤ lo') : field (place v lo') lo n = 0 := by
  apply Nat.eq_of_testBit_eq
  intro i
  rw [testBit_field, Laws.getLsbD_place, Nat.zero_testBit]
  by_cases hi : i < n
  · simp [show ¬ lo' ≤ lo + i by omega]
  · simp [hi]

/-- A field above the bits of the number placed is 0. -/
theorem field_place_above {v lo' lo n : Nat} (h : lo' ≤ lo) (hv : v < 2 ^ (lo - lo')) : field (place v lo') lo n = 0 := by
  apply Nat.eq_of_testBit_eq
  intro i
  have : v.testBit (lo + i - lo') = false :=
    Nat.testBit_lt_two_pow (lt_of_lt_of_le hv (Nat.pow_le_pow_right (by decide) (by omega)))
  rw [testBit_field, Laws.getLsbD_place, this, Nat.zero_testBit, Bool.and_false, Bool.and_false]

/-- A flag is its one-bit field. -/
theorem toNat_flag (w : Word) (i : Nat) : (flag w i).toNat = field w i 1 := by
  apply Nat.eq_of_testBit_eq
  intro k
  rw [testBit_field, flag]
  cases k with
  | zero => cases w.getLsbD i <;> simp
  | succ k => cases w.getLsbD i <;> simp [Nat.testBit_succ]

theorem placeBit_flag (w : Word) (i : Nat) : placeBit (flag w i) i = place (field w i 1) i := by
  rw [placeBit, toNat_flag]

/-- Two adjoining fields, put back in place, are one. -/
theorem place_field_split (w : Word) (lo n m : Nat) :
    place (field w lo (n + m)) lo = place (field w lo n) lo ||| place (field w (lo + n) m) (lo + n) := by
  apply BitVec.eq_of_getLsbD_eq
  intro i _
  simp only [BitVec.getLsbD_or, Laws.getLsbD_place, testBit_field]
  by_cases hlo : lo ≤ i
  · by_cases hn : lo + n ≤ i
    · simp [hlo, hn, show ¬ i - lo < n by omega, show lo + (i - lo) = i by omega, show lo + n + (i - (lo + n)) = i by omega,
        show i - lo < n + m ↔ i - (lo + n) < m by omega]
    · simp [hlo, hn, show i - lo < n by omega, show i - lo < n + m by omega]
  · simp [hlo, show ¬ lo + n ≤ i by omega]

/-- A word is its 32-bit field. -/
theorem place_field_all (w : Word) : place (field w 0 32) 0 = w := by
  simp [place, field]

/-! #### Decoding what the encoder writes -/

theorem flag_eq (w : Word) (i : Nat) : flag w i = decide (field w i 1 = 1) := by
  rw [← toNat_flag]
  cases flag w i <;> rfl

theorem ofBit_bit (pol : Policy) : Policy.ofBit pol.bit = pol := by cases pol <;> rfl

theorem bit_ofBit (b : Bool) : (Policy.ofBit b).bit = b := by cases b <;> rfl

theorem decodeWord_encode_init (pol : Policy) (w h : Nat) (hw : w < 2 ^ 13) (hh : h < 2 ^ 13) :
    decodeWord (Instr.init pol w h).encode = .ok (.init pol w h) := by
  have hp : pol.bit.toNat < 2 ^ 1 := by cases pol <;> decide
  have hfield : ∀ lo n, field (Instr.init pol w h).encode lo n =
      field (place 1 0) lo n ||| field (place pol.bit.toNat 4) lo n ||| field (place w 5) lo n ||| field (place h 18) lo n := by
    intro lo n
    rw [← field_or, ← field_or, ← field_or]
    rfl
  simp (disch := omega) [decodeWord, flag_eq, hfield, field_place, field_place_below, field_place_above, ofBit_bit]

theorem decodeWord_encode_setXform (scale : Nat) (rot : Bool) (hs : scale < 2 ^ 2) :
    decodeWord (Instr.setXform scale rot).encode = .ok (.setXform scale rot) := by
  have hr : rot.toNat < 2 ^ 1 := by cases rot <;> decide
  have hfield : ∀ lo n, field (Instr.setXform scale rot).encode lo n =
      field (place 3 0) lo n ||| field (place scale 4) lo n ||| field (place rot.toNat 6) lo n := by
    intro lo n
    rw [← field_or, ← field_or]
    rfl
  simp (disch := omega) [decodeWord, flag_eq, hfield, field_place, field_place_below, field_place_above]

theorem decodeWord_encode_setBacklight (pct : Nat) (hp : pct < 2 ^ 8) :
    decodeWord (Instr.setBacklight pct).encode = .ok (.setBacklight pct) := by
  have hfield : ∀ lo n, field (Instr.setBacklight pct).encode lo n = field (place 10 0) lo n ||| field (place pct 4) lo n := by
    intro lo n
    rw [← field_or]
    rfl
  simp (disch := omega) [decodeWord, hfield, field_place, field_place_below, field_place_above]

/-- The decoder reads back what the encoder wrote: format by format, the operands of one bit by their values. -/
theorem decodeWord_encode (i : Instr) (h : i.wf = true) : decodeWord i.encode = .ok i := by
  cases i with
  | init pol w h' =>
    simp only [Instr.wf, Bool.and_eq_true, decide_eq_true_eq] at h
    exact decodeWord_encode_init pol w h' (by omega) (by omega)
  | setXform scale rot =>
    simp only [Instr.wf, decide_eq_true_eq] at h
    exact decodeWord_encode_setXform scale rot (by omega)
  | setBacklight pct =>
    simp only [Instr.wf, decide_eq_true_eq] at h
    exact decodeWord_encode_setBacklight pct (by omega)
  | publish f => revert f; decide
  | line buf ur => revert buf ur; decide
  | recompute | enable | disable | acquire | waitVsync | pollVsync | teardown => decide

/-- Settles O1: the decoder without ports reads back the encoder's words, and the port is the instruction's own. -/
theorem decodeOfEncodedInstruction : Obligations.DecodeOfEncodedInstruction := by
  intro i h
  exact (decode_eq_ok_iff i.port i.encode i).mpr ⟨decodeWord_encode i h, rfl⟩

/-! #### Encoding what the decoder reads -/

theorem place_low (v : Nat) : place v 0 = BitVec.ofNat 32 v := by simp [place]

theorem place_zero (lo : Nat) : place 0 lo = 0#32 := by simp [place]

/-- A word is its `OP` and the rest. -/
theorem op_or_rest (w : Word) : place (field w 0 4) 0 ||| place (field w 4 28) 4 = w := by
  rw [← place_field_split w 0 4 28, place_field_all]

/-- Format Z: the encoder's word of an instruction that is an `OP` alone (30_encoding.md R92). -/
theorem encode_of_decodeZ {w : Word} {i j : Instr} {op : Nat} (hop : field w 0 4 = op) (h : decodeZ w j = .ok i)
    (hj : j.wf = true) (he : j.encode = place op 0) : i.wf = true ∧ i.encode = w := by
  unfold decodeZ at h
  split at h <;> cases h
  rename_i hres
  refine ⟨hj, ?_⟩
  rw [he, ← hop]
  simpa [hres, place_zero] using op_or_rest w

/-- A word that decodes is, field by field, the word of a well-formed instruction. -/
theorem encode_of_decodeWord {w : Word} {i : Instr} (h : decodeWord w = .ok i) : i.wf = true ∧ i.encode = w := by
  have hw := op_or_rest w
  unfold decodeWord at h
  split at h
  case h_1 hop =>
    split at h <;> cases h
    rename_i hres
    have hwidth := field_lt w 5 13
    have hheight := field_lt w 18 13
    refine ⟨by simp only [Instr.wf, Bool.and_eq_true, decide_eq_true_eq]; omega, ?_⟩
    rw [hop, place_field_split w 4 1 27, place_field_split w 5 13 14, place_field_split w 18 13 1, hres, place_zero,
      BitVec.or_zero] at hw
    simpa [Instr.encode, place_low, bit_ofBit, placeBit_flag, BitVec.or_assoc] using hw
  case h_3 hop =>
    split at h <;> cases h
    rename_i hres
    have hscale := field_lt w 4 2
    refine ⟨by simp only [Instr.wf, decide_eq_true_eq]; omega, ?_⟩
    rw [hop, place_field_split w 4 2 26, place_field_split w 6 1 25, hres, place_zero, BitVec.or_zero] at hw
    simpa [Instr.encode, place_low, placeBit_flag, BitVec.or_assoc] using hw
  case h_7 hop =>
    split at h <;> cases h
    rename_i hres
    refine ⟨rfl, ?_⟩
    rw [hop, place_field_split w 4 1 27, hres, place_zero, BitVec.or_zero] at hw
    simpa [Instr.encode, place_low, placeBit_flag] using hw
  case h_10 hop =>
    split at h <;> cases h
    rename_i hres
    have hpct := field_lt w 4 8
    refine ⟨by simp only [Instr.wf, decide_eq_true_eq]; omega, ?_⟩
    rw [hop, place_field_split w 4 8 20, hres, place_zero, BitVec.or_zero] at hw
    simpa [Instr.encode, place_low] using hw
  case h_12 hop =>
    split at h <;> cases h
    rename_i hres
    refine ⟨rfl, ?_⟩
    rw [hop, place_field_split w 4 1 27, place_field_split w 5 1 26, hres, place_zero, BitVec.or_zero] at hw
    simpa [Instr.encode, place_low, placeBit_flag, BitVec.or_assoc] using hw
  case h_13 => cases h
  all_goals
    rename_i hop
    exact encode_of_decodeZ hop h rfl (by decide)

/-- Settles O2: what decodes is the encoder's word, and the port's decoder checks the port. -/
theorem encodeOfDecodedWord : Obligations.EncodeOfDecodedWord := by
  intro p w i h
  obtain ⟨hdec, hport⟩ := (decode_eq_ok_iff p w i).mp h
  obtain ⟨hwf, hword⟩ := encode_of_decodeWord hdec
  exact ⟨hwf, hport, hword⟩

/-- Settles O4: the decoder evaluated on the words of 95_test_vectors.md. -/
theorem writtenOutWordsDecode : Obligations.WrittenOutWordsDecode := by
  unfold Obligations.WrittenOutWordsDecode
  decide

end Sys2Proof.EncodingProof
end

section
/-! PROOFS of 10_state.md, the register words. A register is a union of placed numbers, as an operation word is, so its fields follow by
the lemmas of `EncodingProof`. -/

namespace Sys2Proof.RegisterProof

open Sys2Proof
open Sys2Proof.Machine
open Sys2Proof.EncodingProof

/-- A register's field is placed as an operation's is. -/
theorem fieldAt_eq_place (v lo : Nat) : fieldAt v lo = place v lo := rfl

theorem bitAt_eq_place (b : Bool) (i : Nat) : bitAt b i = place b.toNat i := rfl

theorem extractLsb'_eq_iff (w : Word) (lo n : Nat) (v : BitVec n) : w.extractLsb' lo n = v ↔ field w lo n = v.toNat :=
  BitVec.toNat_inj.symm

theorem toNat_extractLsb'_eq_field (w : Word) (lo n : Nat) : (w.extractLsb' lo n).toNat = field w lo n := rfl

theorem getLsbD_eq_field (w : Word) (i : Nat) : w.getLsbD i = decide (field w i 1 = 1) := flag_eq w i

/-! #### The bounds of the numbers placed -/

theorem toNat_lt_bit (b : Bool) : b.toNat < 2 ^ 1 := Bool.toNat_lt b
theorem syncNumber_lt (x : SyncState) : x.number < 2 ^ 2 := by cases x <;> decide
theorem lastbNumber_lt (x : LastBoundary) : x.number < 2 ^ 2 := by cases x <;> decide
theorem pendNumber_lt (x : Held) : x.number < 2 ^ 2 := by cases x <;> decide
theorem codeNumber_lt (x : ResultCode) : x.number < 2 ^ 4 := by cases x <;> decide

/-- Settles O12: each field of the status word by the lemmas on placed numbers. -/
theorem statusRegisterBits : Obligations.StatusRegisterBits := by
  intro s w
  have hi := toNat_lt_bit s.inited
  have he := toNat_lt_bit s.en
  have hg := toNat_lt_bit s.geomValid
  have hf := toNat_lt_bit s.front
  have hr := toNat_lt_bit s.fr
  have ha := toNat_lt_bit s.ack
  have hu := toNat_lt_bit s.urf
  have hs := syncNumber_lt s.sync
  have hl := lastbNumber_lt s.lastb
  have hp := pendNumber_lt s.pend
  have h0 := toNat_lt_bit s.fbValid0
  have h1 := toNat_lt_bit s.fbValid1
  have hw : w = s.statusWord := rfl
  refine ⟨?bits, ?wires⟩
  case bits =>
    simp only [hw, getLsbD_eq_field, extractLsb'_eq_iff, State.statusWord, fieldAt_eq_place, bitAt_eq_place, field_or]
    simp (disch := omega) [field_place, field_place_below, field_place_above]
    refine ⟨?sync, ?lastb, ?pend⟩
    case sync => cases s.sync <;> rfl
    case lastb => cases s.lastb <;> rfl
    case pend => cases s.pend <;> rfl
  case wires => simp [State.wires]

/-- Settles O13: each field of the other words by the same lemmas; the panel's sizes fit their 13 bits by the premise. -/
theorem configurationRegisterFields : Obligations.ConfigurationRegisterFields := by
  intro s hpar
  refine ⟨?dim, ?panel, ?xform, ?result, ?backlight, ⟨rfl, rfl, rfl, rfl, rfl, rfl, rfl, rfl, rfl, rfl⟩, ⟨rfl, rfl⟩, ?evt⟩
  case dim =>
    have hw := s.lw.isLt
    have hh := s.lh.isLt
    simp only [State.hostReg, State.cfgDimWord, extractLsb'_eq_iff, fieldAt_eq_place, field_or]
    simp (disch := omega) [field_place, field_place_below, field_place_above]
  case panel =>
    obtain ⟨⟨-, hpw⟩, ⟨-, hph⟩, -⟩ := hpar
    have hw : s.par.pw < 2 ^ 13 := Nat.lt_succ_of_le hpw
    have hh : s.par.ph < 2 ^ 13 := Nat.lt_succ_of_le hph
    simp only [State.hostReg, State.panelWord, Nat.mod_eq_of_lt hw, Nat.mod_eq_of_lt hh, toNat_extractLsb'_eq_field,
      extractLsb'_eq_iff, fieldAt_eq_place, field_or]
    simp (disch := omega) [field_place, field_place_below, field_place_above]
  case xform =>
    have hs := s.scale.isLt
    have hr := toNat_lt_bit s.rot
    have hp := toNat_lt_bit (decide (s.policy = .tearfree))
    simp only [State.hostReg, State.xformWord, getLsbD_eq_field, extractLsb'_eq_iff, fieldAt_eq_place, bitAt_eq_place, field_or]
    simp (disch := omega) [field_place, field_place_below, field_place_above]
  case result =>
    have hc := codeNumber_lt s.result.code
    have hv := toNat_lt_bit s.result.val
    simp only [State.hostReg, State.resultWord, getLsbD_eq_field, extractLsb'_eq_iff, fieldAt_eq_place, bitAt_eq_place, field_or]
    simp (disch := omega) [field_place, field_place_below, field_place_above]
    cases s.result.code <;> rfl
  case backlight =>
    have hb := s.backlight.isLt
    simp only [State.hostReg, State.backlightWord, extractLsb'_eq_iff, fieldAt_eq_place]
    simp (disch := omega) [field_place, field_place_above]
  case evt =>
    have he := toNat_lt_bit s.rearm
    simp only [State.evtReg, State.evtRespWord, getLsbD_eq_field, extractLsb'_eq_iff, bitAt_eq_place]
    simp (disch := omega) [field_place, field_place_above]

end Sys2Proof.RegisterProof
end

section
/-! PROOFS of 40_geometry.md, the function `geom`. Everything rests on one closed form, for both rotations: the content `along` the line or the
scan axis leaves out `skipOf` source pixels on the leading side (`skipCount_eq`), and what is left out and what is shown
together fit the content (`skipOf_add_shown_le`). -/

namespace Sys2Proof.GeometryProof

open Sys2Proof
open Sys2Proof.Machine

/-- The source pixels left out on the leading side: half the overflow, in source pixels (40_geometry.md R129). -/
def skipOf (p along s : Nat) : Nat := (along * s - p) / 2 / s

theorem skipOf_eq (p along s : Nat) : (along * s - p) / 2 / s = skipOf p along s := rfl

/-! #### The centring offset and what follows from it -/

/-- Settles O17: truncation rounds both halves toward zero. -/
theorem centerOffsetTruncatesTowardZero : Obligations.CenterOffsetTruncatesTowardZero := by
  intro p along s
  rw [centerOffset, ← Nat.cast_mul]
  generalize along * s = c
  split
  · rw [Int.tdiv_eq_ediv_of_nonneg (by omega)]
    omega
  · rw [show (p : Int) - c = -((c : Int) - p) by omega, Int.neg_tdiv, Int.tdiv_eq_ediv_of_nonneg (by omega)]
    omega

theorem centerOffset_of_le {p along s : Nat} (h : along * s ≤ p) : centerOffset p along s = ((p - along * s) / 2 : Nat) := by
  rw [centerOffsetTruncatesTowardZero, if_pos h]

theorem centerOffset_of_lt {p along s : Nat} (h : p < along * s) : centerOffset p along s = -((along * s - p) / 2 : Nat) := by
  rw [centerOffsetTruncatesTowardZero, if_neg (by omega)]

theorem skipCount_eq (p along s : Nat) : skipCount (centerOffset p along s) s = skipOf p along s := by
  rw [skipCount, skipOf]
  by_cases h : along * s ≤ p
  · rw [centerOffset_of_le h, if_neg (by omega), Nat.sub_eq_zero_of_le h]
    simp
  · rw [centerOffset_of_lt (by omega), neg_neg]
    split
    · norm_cast
    · rw [show (along * s - p) / 2 = 0 by omega, Nat.zero_div]
      rfl

theorem max_centerOffset_eq (p along s : Nat) : max (centerOffset p along s) 0 = ((p - along * s) / 2 : Nat) := by
  by_cases h : along * s ≤ p
  · rw [centerOffset_of_le h]
    omega
  · rw [centerOffset_of_lt (by omega)]
    omega

/-! #### What is left out and what is shown fit the content -/

theorem skipOf_of_le {p along s : Nat} (h : along * s ≤ p) : skipOf p along s = 0 := by
  rw [skipOf, Nat.sub_eq_zero_of_le h]
  simp

/-- Half the overflow and the panel's extent together are no more than the content. -/
theorem skipOf_add_div_le {p along s : Nat} (hs : 0 < s) (h : p ≤ along * s) : skipOf p along s + p / s ≤ along := by
  have hsum : skipOf p along s + p / s ≤ ((along * s - p) / 2 + p) / s := Nat.div_add_div_le_add_div
  have hfit : ((along * s - p) / 2 + p) / s ≤ along * s / s := Nat.div_le_div_right (by omega)
  rw [Nat.mul_div_cancel _ hs] at hfit
  omega

theorem skipOf_lt {p along s : Nat} (hs : 0 < s) (ha : 0 < along) (hp : 0 < p / s) : skipOf p along s < along := by
  by_cases h : along * s ≤ p
  · rw [skipOf_of_le h]
    exact ha
  · have := skipOf_add_div_le hs (p := p) (along := along) (by omega)
    omega

theorem skipOf_add_lineWidthOf_le {p along s : Nat} (hs : 0 < s) : skipOf p along s + lineWidthOf p along s ≤ along := by
  unfold lineWidthOf
  split
  next h => exact skipOf_add_div_le hs (by omega)
  next h => rw [skipOf_of_le (by omega), Nat.zero_add]

theorem lineWidthOf_pos {p along s : Nat} (ha : 0 < along) (hp : 0 < p / s) : 1 ≤ lineWidthOf p along s := by
  unfold lineWidthOf
  split <;> omega

/-- The row, replicated, fits the panel's extent from where it starts. -/
theorem dstStart_add_row_le (p along s : Nat) : (p - along * s) / 2 + lineWidthOf p along s * s ≤ p := by
  unfold lineWidthOf
  split
  · have := Nat.div_mul_le_self p s
    omega
  · omega

/-! #### The result of `geom` -/

/-- The sizes with which `geom` gives values. -/
structure Sizes (w h pw ph s : Nat) : Prop where
  width : 0 < w
  height : 0 < h
  scale : 0 < s
  panelWidth : 0 < pw / s
  panelHeight : 0 < ph / s

theorem geomError_eq_true_iff (w h pw ph s : Nat) :
    geomError w h pw ph s = true ↔ w = 0 ∨ h = 0 ∨ s = 0 ∨ pw / s = 0 ∨ ph / s = 0 := by
  simp only [geomError, Bool.or_eq_true, beq_iff_eq, or_assoc]

theorem calcGeom_eq_none_iff (w h pw ph s : Nat) (rot : Bool) :
    calcGeom w h pw ph s rot = none ↔ geomError w h pw ph s = true := by
  unfold calcGeom
  cases geomError w h pw ph s <;> cases rot <;> simp

theorem sizes_iff (w h pw ph s : Nat) : Sizes w h pw ph s ↔ geomError w h pw ph s = false := by
  rw [← Bool.not_eq_true, geomError_eq_true_iff]
  simp only [not_or, ← Nat.pos_iff_ne_zero]
  exact ⟨fun ⟨hw, hh, hs, hpw, hph⟩ => ⟨hw, hh, hs, hpw, hph⟩, fun ⟨hw, hh, hs, hpw, hph⟩ => ⟨hw, hh, hs, hpw, hph⟩⟩

theorem calcGeom_eq_some_iff (w h pw ph s : Nat) (rot : Bool) (g : Geometry Int) :
    calcGeom w h pw ph s rot = some g ↔
      Sizes w h pw ph s ∧ g = if rot then geomRotated w h pw ph s else geomPlain w h pw ph s := by
  unfold calcGeom
  rw [sizes_iff]
  cases geomError w h pw ph s <;> cases rot <;> simp [eq_comm]

/-- Settles O16: the test of the configuration, and division by a scale factor of at most 3. -/
theorem geomErrorsExactly : Obligations.GeomErrorsExactly := by
  intro w h pw ph s rot
  refine ⟨by rw [calcGeom_eq_none_iff, geomError_eq_true_iff], ?_⟩
  rintro (rfl | rfl | rfl) hpw hph <;> omega

/-- The source's extent along the line and along the scan axis. -/
def alongLine (rot : Bool) (w h : Nat) : Nat := if rot then h else w
def alongScan (rot : Bool) (w h : Nat) : Nat := if rot then w else h

/-- Settles O18: the closed forms of the skips and of the destination start, for each rotation. -/
theorem geometryValues : Obligations.GeometryValues := by
  intro w h pw ph s rot g hg
  obtain ⟨-, rfl⟩ := (calcGeom_eq_some_iff w h pw ph s rot g).mp hg
  have hline : ∀ along, (lineWidthOf pw along s : Int) = ((if pw < along * s then pw / s else along : Nat) : Int) :=
    fun _ => rfl
  cases rot
  · simp [geomPlain, skipCount_eq, max_centerOffset_eq, hline, skipOf]
  · simp [geomRotated, skipCount_eq, max_centerOffset_eq, hline, skipOf]

/-! #### Source indices -/

theorem alongLine_pos {w h pw ph s : Nat} (rot : Bool) (hz : Sizes w h pw ph s) : 0 < alongLine rot w h := by
  cases rot
  · exact hz.width
  · exact hz.height

theorem alongScan_pos {w h pw ph s : Nat} (rot : Bool) (hz : Sizes w h pw ph s) : 0 < alongScan rot w h := by
  cases rot
  · exact hz.height
  · exact hz.width

/-- Place `col` of row `row` of a frame `w` wide and `h` high. -/
theorem row_mul_add_col_lt {w h row col : Nat} (hrow : row < h) (hcol : col < w) : row * w + col < w * h := by
  calc row * w + col < row * w + w := by omega
    _ = w * (row + 1) := by ring
    _ ≤ w * h := Nat.mul_le_mul_left _ hrow

theorem row_of_row_mul_add_lt {w h row col : Nat} (h' : row * w + col < w * h) : row < h := by
  by_contra hrow
  have := Nat.mul_le_mul_left w (not_lt.mp hrow)
  rw [Nat.mul_comm row w] at h'
  omega

section Geom

variable {w h pw ph s : Nat} {rot : Bool} {g : Geometry Int} (hg : calcGeom w h pw ph s rot = some g)
include hg

/-- The cursor on destination line `n`: row `skip + n`, or column `skip + n` where the picture is rotated. -/
theorem cursor_eq (n : Nat) : g.startOffset + n * g.increment =
    ((if rot then skipOf ph w s + n else (skipOf ph h s + n) * w + skipOf pw w s : Nat) : Int) := by
  obtain ⟨-, -, -, -, -, hstart, hinc, -⟩ := geometryValues w h pw ph s rot g hg
  rw [hstart, hinc]
  cases rot
  · simp only [Bool.false_eq_true, if_false, skipOf_eq]
    push_cast
    ring
  · simp [skipOf_eq]

/-- The span test of destination line `n` (41_scanout.md R153). -/
theorem cursor_lt_span_iff (n : Nat) :
    g.startOffset + n * g.increment < g.validSpan ↔ skipOf ph (alongScan rot w h) s + n < alongScan rot w h := by
  obtain ⟨hz, -⟩ := (calcGeom_eq_some_iff w h pw ph s rot g).mp hg
  obtain ⟨-, -, -, -, -, -, -, hspan, -⟩ := geometryValues w h pw ph s rot g hg
  rw [cursor_eq hg, hspan, Nat.cast_lt]
  cases rot
  · have hskip := skipOf_lt hz.scale hz.width hz.panelWidth
    exact ⟨row_of_row_mul_add_lt, fun hrow => row_mul_add_col_lt hrow hskip⟩
  · exact Iff.rfl

/-- The source index of source pixel `j` on destination line `n`: the pixel `skip + j` of the row, or of the column counted from
its last row (40_geometry.md R129, R133). -/
theorem sourceIndex_eq (n j : Nat) : g.lineBase + (g.startOffset + n * g.increment) + j * g.stride =
    if rot then ((h : Int) - 1 - (skipOf pw h s + j : Nat)) * w + (skipOf ph w s + n : Nat)
    else ((skipOf ph h s + n : Nat) : Int) * w + (skipOf pw w s + j : Nat) := by
  obtain ⟨-, -, -, -, -, -, -, -, hbase, hstride⟩ := geometryValues w h pw ph s rot g hg
  rw [cursor_eq hg, hbase, hstride]
  cases rot
  · simp only [Bool.false_eq_true, if_false]
    push_cast
    ring
  · simp only [if_true, skipOf_eq]
    push_cast
    ring

theorem skip_add_lt_alongLine {j : Nat} (hj : (j : Int) < g.lineWidth) :
    skipOf pw (alongLine rot w h) s + j < alongLine rot w h := by
  obtain ⟨hz, -⟩ := (calcGeom_eq_some_iff w h pw ph s rot g).mp hg
  obtain ⟨-, -, -, -, hwidth, -⟩ := geometryValues w h pw ph s rot g hg
  have hfit := skipOf_add_lineWidthOf_le hz.scale (p := pw) (along := alongLine rot w h)
  have hline : g.lineWidth = lineWidthOf pw (alongLine rot w h) s := hwidth
  omega

/-- Every source index of a destination line that passes the span test lies in the frame. -/
theorem sourceIndex_mem_frame {n j : Nat} (hn : g.startOffset + n * g.increment < g.validSpan) (hj : (j : Int) < g.lineWidth) :
    0 ≤ g.lineBase + (g.startOffset + n * g.increment) + j * g.stride ∧
    g.lineBase + (g.startOffset + n * g.increment) + j * g.stride < w * h := by
  rw [cursor_lt_span_iff hg] at hn
  have hskip := skip_add_lt_alongLine hg hj
  rw [sourceIndex_eq hg]
  cases rot
  · have hidx := row_mul_add_col_lt hn hskip
    simp only [alongScan, alongLine, Bool.false_eq_true, if_false] at hidx ⊢
    constructor
    · positivity
    · exact_mod_cast hidx
  · simp only [alongScan, alongLine, if_true] at hn hskip ⊢
    have hrow : ((h : Int) - 1 - (skipOf pw h s + j : Nat)) = ((h - 1 - (skipOf pw h s + j) : Nat) : Int) := by omega
    have hidx : (h - 1 - (skipOf pw h s + j)) * w + (skipOf ph w s + n) < w * h := row_mul_add_col_lt (by omega) hn
    rw [hrow]
    constructor
    · positivity
    · exact_mod_cast hidx

end Geom

/-- Settles O20: the row fits by the width shown, the indices by `sourceIndex_mem_frame`. -/
theorem geometryStaysInBounds : Obligations.GeometryStaysInBounds := by
  intro w h pw ph s rot g hg
  obtain ⟨hz, -⟩ := (calcGeom_eq_some_iff w h pw ph s rot g).mp hg
  obtain ⟨-, -, -, hdst, hwidth, -⟩ := geometryValues w h pw ph s rot g hg
  have hline : g.lineWidth = lineWidthOf pw (alongLine rot w h) s := hwidth
  have hpos := lineWidthOf_pos (alongLine_pos rot hz) hz.panelWidth
  have hfit := skipOf_add_lineWidthOf_le hz.scale (p := pw) (along := alongLine rot w h)
  have hrow := dstStart_add_row_le pw (alongLine rot w h) s
  have hdst' : g.dstStart = ((pw - alongLine rot w h * s) / 2 : Nat) := hdst
  refine ⟨by omega, ?_, by omega, ?_, ?indices⟩
  · have : lineWidthOf pw (alongLine rot w h) s ≤ alongLine rot w h := by omega
    rw [hline]
    exact_mod_cast this
  · rw [hline, hdst']
    exact_mod_cast hrow
  case indices =>
    intro n j hn _ hspan hj hjw
    lift n to Nat using hn
    lift j to Nat using hj
    exact sourceIndex_mem_frame hg hspan hjw

/-- Settles O21: overflow leaves `PH div S` lines inside the content; without overflow no line is left out on the scan axis. -/
theorem whichLinesAreBlank : Obligations.WhichLinesAreBlank := by
  intro w h pw ph s rot g hg
  obtain ⟨hz, -⟩ := (calcGeom_eq_some_iff w h pw ph s rot g).mp hg
  obtain ⟨-, -, hlines, -⟩ := geometryValues w h pw ph s rot g hg
  have hcursor : ∀ n : Nat, 0 ≤ g.startOffset + n * g.increment := fun n => by
    rw [cursor_eq hg]
    exact Int.natCast_nonneg _
  refine ⟨?oversized, ?fitting⟩
  case oversized =>
    intro hover n hn
    have hfit := skipOf_add_div_le hz.scale (p := ph) (along := alongScan rot w h) hover.le
    exact ⟨hcursor n, (cursor_lt_span_iff hg n).mpr (by omega)⟩
  case fitting =>
    intro hle
    have hskip : skipOf ph (alongScan rot w h) s = 0 := skipOf_of_le hle
    have hroom : alongScan rot w h ≤ ph / s := (Nat.le_div_iff_mul_le hz.scale).mpr hle
    refine ⟨fun n _ => ⟨hcursor n, ?_⟩, ?_, fun n j _ hj => ⟨skip_add_lt_alongLine hg hj, ?_⟩⟩
    · rw [cursor_lt_span_iff hg, hskip, Nat.zero_add]
      rfl
    · rw [hlines]
      exact_mod_cast hroom
    · rw [sourceIndex_eq hg]
      cases rot
      · simp only [alongScan, Bool.false_eq_true, if_false] at hskip ⊢
        rw [hskip, Nat.zero_add]
        rfl
      · simp only [alongScan, if_true] at hskip ⊢
        rw [hskip, Nat.zero_add]
        rfl

/-! #### The registers -/

/-- A 32-bit register holds a number within its signed range (00_scope.md R9). -/
theorem toInt_ofInt {x : Int} (hlo : -2 ^ 31 ≤ x) (hhi : x < 2 ^ 31) : (BitVec.ofInt 32 x).toInt = x := by
  rw [BitVec.toInt_ofInt]
  exact Int.bmod_eq_of_le (by omega) (by omega)

theorem centerOffset_bounds {p along s : Nat} (hp : p ≤ 8191) (hp1 : 1 ≤ p) (ha : along ≤ 8191) (hs : s ≤ 3) :
    -12286 ≤ centerOffset p along s ∧ centerOffset p along s ≤ 4095 := by
  have hc : along * s ≤ 8191 * 3 := Nat.mul_le_mul ha hs
  rw [centerOffsetTruncatesTowardZero]
  split <;> omega

/-- The ten values lie in the ranges of 40_geometry.md R139. -/
structure WithinBounds (w h : Nat) (g : Geometry Int) : Prop where
  offsetX : -12286 ≤ g.offsetX ∧ g.offsetX ≤ 4095
  offsetY : -12286 ≤ g.offsetY ∧ g.offsetY ≤ 4095
  startOffset : 0 ≤ g.startOffset ∧ g.startOffset < w * h
  increment : 1 ≤ g.increment ∧ g.increment ≤ 8191
  validSpan : 1 ≤ g.validSpan ∧ g.validSpan ≤ 67092481
  lineWidth : 1 ≤ g.lineWidth ∧ g.lineWidth ≤ 8191
  lineBase : 0 ≤ g.lineBase ∧ g.lineBase < w * h
  stride : -8191 ≤ g.stride ∧ g.stride ≤ 1
  dstStart : 0 ≤ g.dstStart ∧ g.dstStart ≤ 8191
  linesPerFrame : 1 ≤ g.linesPerFrame ∧ g.linesPerFrame ≤ 8191
  frame : w * h ≤ 67092481
  lastCursor : g.startOffset + g.linesPerFrame * g.increment ≤ 134184961

theorem withinBounds {w h pw ph s : Nat} {rot : Bool} {g : Geometry Int} (hg : calcGeom w h pw ph s rot = some g)
    (hw : w ≤ 8191) (hh : h ≤ 8191) (hpw : pw ≤ 8191) (hph : ph ≤ 8191) (hs : s ≤ 3) : WithinBounds w h g := by
  obtain ⟨hz, -⟩ := (calcGeom_eq_some_iff w h pw ph s rot g).mp hg
  obtain ⟨hx, hy, hlines, hdst, -, -, hinc, hspan, hbase, hstride⟩ := geometryValues w h pw ph s rot g hg
  obtain ⟨hwidth1, hwidth, -⟩ := geometryStaysInBounds w h pw ph s rot g hg
  have hw1 := hz.width
  have hh1 := hz.height
  have hframe : w * h ≤ 8191 * 8191 := Nat.mul_le_mul hw hh
  have hframe1 : 0 < w * h := Nat.mul_pos hw1 hh1
  have hpw1 : 1 ≤ pw := Nat.pos_of_ne_zero fun h0 => by simpa [h0] using hz.panelWidth
  have hph1 : 1 ≤ ph := Nat.pos_of_ne_zero fun h0 => by simpa [h0] using hz.panelHeight
  have hlines8191 : ph / s ≤ 8191 := (Nat.div_le_self ph s).trans hph
  have hlines1 := hz.panelHeight
  have hincBounds : 1 ≤ g.increment ∧ g.increment ≤ 8191 := by
    rw [hinc]
    cases rot <;> simp only [Bool.false_eq_true, if_true, if_false] <;> omega
  have hlast : g.linesPerFrame * g.increment ≤ 8191 * 8191 := by
    rw [hlines]
    exact mul_le_mul (by exact_mod_cast hlines8191) hincBounds.2 (by omega) (by norm_num)
  -- The first pixel of line 0 lies in the frame at `lineBase + startOffset`, a sum of two naturals.
  have hstart0 : 0 ≤ g.startOffset := by
    have := cursor_eq hg 0
    omega
  have hbase0 : 0 ≤ g.lineBase := by
    have hskip := skip_add_lt_alongLine hg (j := 0) (by omega)
    rw [hbase]
    cases rot
    · simp
    · exact mul_nonneg (by simp only [alongLine, if_true, skipOf] at hskip ⊢; omega) (by omega)
  have hfirst : g.lineBase + g.startOffset < w * h := by
    have hskip := skipOf_lt hz.scale (alongScan_pos rot hz) hz.panelHeight
    have hmem := sourceIndex_mem_frame hg (n := 0) (j := 0) ((cursor_lt_span_iff hg 0).mpr (by omega)) (by omega)
    simpa using hmem.2
  refine ⟨?_, ?_, ⟨hstart0, by omega⟩, hincBounds, ?_, ⟨hwidth1, ?_⟩, ⟨hbase0, by omega⟩, ?_, ?_, by omega, by omega, by omega⟩
  · rw [hx]
    cases rot
    · exact centerOffset_bounds hpw hpw1 hw hs
    · exact centerOffset_bounds hph hph1 hw hs
  · rw [hy]
    cases rot
    · exact centerOffset_bounds hph hph1 hh hs
    · exact centerOffset_bounds hpw hpw1 hh hs
  · rw [hspan]
    cases rot <;> simp only [Bool.false_eq_true, if_true, if_false] <;> omega
  · cases rot <;> simp at hwidth <;> omega
  · rw [hstride]
    cases rot <;> simp only [Bool.false_eq_true, if_true, if_false] <;> omega
  · omega

/-- The ten registers, read as signed numbers, are the ten values. -/
structure Holds (r : Geometry Word) (g : Geometry Int) : Prop where
  offsetX : r.offsetX.toInt = g.offsetX
  offsetY : r.offsetY.toInt = g.offsetY
  startOffset : r.startOffset.toInt = g.startOffset
  increment : r.increment.toInt = g.increment
  validSpan : r.validSpan.toInt = g.validSpan
  lineWidth : r.lineWidth.toInt = g.lineWidth
  lineBase : r.lineBase.toInt = g.lineBase
  stride : r.stride.toInt = g.stride
  dstStart : r.dstStart.toInt = g.dstStart
  linesPerFrame : r.linesPerFrame.toInt = g.linesPerFrame

theorem toRegs_holds {w h : Nat} {g : Geometry Int} (hb : WithinBounds w h g) : Holds g.toRegs g := by
  obtain ⟨hx, hy, hstart, hinc, hspan, hwidth, hbase, hstride, hdst, hlines, hframe, -⟩ := hb
  exact ⟨toInt_ofInt (by omega) (by omega), toInt_ofInt (by omega) (by omega), toInt_ofInt (by omega) (by omega),
    toInt_ofInt (by omega) (by omega), toInt_ofInt (by omega) (by omega), toInt_ofInt (by omega) (by omega),
    toInt_ofInt (by omega) (by omega), toInt_ofInt (by omega) (by omega), toInt_ofInt (by omega) (by omega),
    toInt_ofInt (by omega) (by omega)⟩

/-- Settles O19: the bounds, and that each register holds what lies within them. -/
theorem geometryFitsItsRegisters : Obligations.GeometryFitsItsRegisters := by
  intro w h pw ph s rot g _ hw _ hh _ hpw _ hph hs hg
  have hb := withinBounds hg hw hh hpw hph hs
  obtain ⟨rx, ry, rstart, rinc, rspan, rwidth, rbase, rstride, rdst, rlines⟩ := toRegs_holds hb
  obtain ⟨hx, hy, hstart, -, -, -, hbase, -, -, -, hframe, hlast⟩ := hb
  exact ⟨rx, ry, rstart, rinc, rspan, rwidth, rbase, rstride, rdst, rlines, hx.1, hx.2, hy.1, hy.2, hstart.1, hstart.2,
    hbase.1, hbase.2, hframe, hlast⟩

end Sys2Proof.GeometryProof
end

section
/-! PROOFS of 40_geometry.md, 43_handoff.md, 44_lifecycle.md and 60_exceptions.md, the commands. `CommandEffect` says once what a command can do; what every command keeps
follows from it by cases. The statements about one command are the branches of its definition. -/

namespace Sys2Proof.CommandProof

open Sys2Proof
open Sys2Proof.Machine

/-! #### What each command does, branch by branch -/

theorem exec_setXform {s : State} (scale : Nat) (rot : Bool) (he : s.en = false) : exec (.setXform scale rot) s =
    .next ({ s with scale := scaleField scale, rot := rot, geomValid := false }.setResult .ok false) :=
  if_neg (by simp [he])

/-- Settles O22: the two branches of `SET_XFORM`; a well-formed scale factor fits its field. -/
theorem setXformStoresAndMarksStale : Obligations.SetXformStoresAndMarksStale := by
  intro s scale rot hwf
  simp only [Instr.wf, decide_eq_true_eq] at hwf
  refine ⟨fun he => ⟨_, exec_setXform scale rot he, ?_, rfl⟩, fun he => if_pos he⟩
  simp [scaleField]
  omega

/-- Settles O24: the refusals of `RECOMPUTE`, in their order. -/
theorem recomputeFailures : Obligations.RecomputeFailures := by
  intro s
  refine ⟨fun h => ?refused, fun hi he hg => ?stale⟩
  case refused => rcases h with h | h <;> simp [exec, execRecompute, complete, State.setResult, h]
  case stale => simp [exec, execRecompute, complete, State.setResult, State.geomOf, State.scaleFactor, hi, he, hg]

/-- Settles O38: the two branches of `ACQUIRE`. -/
theorem acquireReportsBackFrame : Obligations.AcquireReportsBackFrame := by
  intro s
  constructor <;> intro hi <;> simp [exec, execAcquire, complete, State.setResult, hi]

/-- Settles O39: `PUBLISH` by the session, the frame it names and whether it waits. -/
theorem publishHandsOverBackFrame : Obligations.PublishHandsOverBackFrame := by
  intro s f
  refine ⟨?now, ?held, ?refused⟩
  case now =>
    rintro hi rfl hready
    have hw : ¬ (s.policy = .tearfree ∧ s.fr = false) := by rcases hready with h | h <;> simp [h]
    simp [exec, execPublish, hi, hw, State.handoff, State.give, State.consume, State.setResult]
  case held =>
    rintro hi rfl hp hf
    simp [exec, execPublish, hi, hp, hf]
  case refused =>
    rintro (h | rfl) <;> simp_all [exec, execPublish, complete, State.setResult]

/-- Settles O40: `WAIT_VSYNC` by the session and `FR`. -/
theorem waitVsyncConsumesFrameReady : Obligations.WaitVsyncConsumesFrameReady := by
  intro s
  refine ⟨fun hi hf => ?_, fun hi hf => ?_, fun hi => ?_⟩
  · simp [exec, execWaitVsync, hi, hf, State.takeVsync, State.consume, State.setResult]
  · simp [exec, execWaitVsync, hi, hf]
  · simp [exec, execWaitVsync, hi, complete, State.setResult]

theorem consume_fr_of_clear {s : State} (h : s.fr = false) : s.consume .fr = s := by
  apply State.ext_fields <;> simp [h]

/-- The taking of `FR`, whether it was available or not. -/
theorem take_fr (s : State) : s.take .fr = (s.fr, s.consume .fr) := by
  cases h : s.fr <;> simp [State.take, State.available, h, consume_fr_of_clear]

theorem exec_pollVsync {s : State} (hi : s.inited = true) :
    exec .pollVsync s = .next ((s.consume .fr).setResult .ok s.fr) := by
  simp [exec, execPollVsync, hi, take_fr, complete]

/-- Settles O41: `take` clears `FR` whatever it held. -/
theorem pollVsyncNeverWaits : Obligations.PollVsyncNeverWaits := by
  intro s
  exact ⟨exec_pollVsync, fun hi => by simp [exec, execPollVsync, hi, complete, State.setResult]⟩

theorem toNat_dimField {v : Nat} (h : v ≤ 8191) : (dimField v).toNat = v := by
  simp [dimField]
  omega

/-- With well-formed operands `INIT` computes the geometry of the sizes it is given. -/
theorem geomOf_dimField {w h : Nat} (s : State) (hw : w ≤ 8191) (hh : h ≤ 8191) :
    s.geomOf (dimField w) (dimField h) = calcGeom w h s.par.pw s.par.ph s.scale.toNat s.rot := by
  rw [State.geomOf, toNat_dimField hw, toNat_dimField hh, State.scaleFactor]

/-- Settles O47: the three tests of `INIT`, in their order. -/
theorem initFailuresChangeOnlyResult : Obligations.InitFailuresChangeOnlyResult := by
  intro s pol w h hwf
  simp only [Instr.wf, Bool.and_eq_true, decide_eq_true_eq] at hwf
  have hgeom := geomOf_dimField s hwf.1 hwf.2
  refine ⟨fun hi => ?_, fun hi hg => ?_, fun hi hg ha => ?_⟩
  · simp [exec, execInit, hi, complete, State.setResult]
  · simp [exec, execInit, hi, hgeom, hg, complete, State.setResult]
  · obtain ⟨g, hg⟩ := Option.ne_none_iff_exists'.mp hg
    simp [exec, execInit, hi, hgeom, hg, ha, complete, State.setResult]

/-- Settles O48: the branches of `ENABLE`, and `DISABLE`, which has one. -/
theorem enableAndDisable : Obligations.EnableAndDisable := by
  intro s
  refine ⟨fun hi hg he => ?_, fun hi hg he => ?_, fun h => ?_, rfl⟩
  · simp [exec, execEnable, hi, hg, he, complete, State.cursorStart, State.setResult]
  · simp [exec, execEnable, hi, hg, he, complete, State.setResult]
  · rcases h with h | h <;> simp [exec, execEnable, h, complete, State.setResult]

/-- Settles O49: the two branches of `TEARDOWN`. -/
theorem teardownReversesInit : Obligations.TeardownReversesInit := by
  intro s
  refine ⟨fun hi he => ⟨_, if_neg (by simp [hi, he]), rfl⟩, fun h => ?_⟩
  · rcases h with h | h <;> simp [exec, execTeardown, h, complete, State.setResult]

theorem exec_setBacklight {s : State} {pct : Nat} (h : pct ≤ 100) :
    exec (.setBacklight pct) s = .next ({ s with backlight := BitVec.ofNat 7 pct }.setResult .ok false) := if_pos h

/-- Settles O51: the two branches of `SET_BACKLIGHT`; 100 fits the 7 bits of `BACKLIGHT`. -/
theorem setBacklightIgnoresOutOfRange : Obligations.SetBacklightIgnoresOutOfRange := by
  intro s pct _
  refine ⟨fun h => ⟨_, exec_setBacklight h, ?_, rfl⟩, fun h => if_neg (Nat.not_le.mpr h)⟩
  simp
  omega

theorem exec_recompute {s : State} {g : Geometry Int} (hi : s.inited = true) (he : s.en = false)
    (hg : s.geomOf s.lw s.lh = some g) : exec .recompute s = .next ((s.loadGeometry g).setResult .ok false) := by
  simp [exec, execRecompute, complete, hi, he, hg]

theorem exec_init {s : State} (pol : Policy) {w h : Nat} {g : Geometry Int} (hi : s.inited = false) (ha : s.allocOk = true)
    (hg : s.geomOf (dimField w) (dimField h) = some g) :
    exec (.init pol w h) s = .next ((s.beginSession pol (dimField w) (dimField h) g).setResult .ok false) := by
  simp [exec, execInit, complete, hi, ha, hg]

theorem exec_teardown {s : State} (hi : s.inited = true) (he : s.en = false) :
    exec .teardown s = .next (s.endSession.setResult .ok false) :=
  if_neg (by simp [hi, he])

/-! #### What any command can do -/

/-- What a command does to the state when its step answers a next state (43_handoff.md R186, 60_exceptions.md R230). -/
inductive CommandEffect (s : State) : Instr → State → Prop
  /-- It completes with `OK` and changes nothing else. -/
  | noted (i : Instr) (v : Bool) (hfree : ¬ isHeldBy i s) (hcode : i.wf = true → resultCodeOf i s = .ok) :
      CommandEffect s i (s.setResult .ok v)
  /-- It fails and changes nothing else. -/
  | refused (i : Instr) (c : ResultCode) (hfree : ¬ isHeldBy i s) (hcode : i.wf = true → resultCodeOf i s = c) :
      CommandEffect s i (s.setResult c false)
  /-- `RECOMPUTE` fails and marks the geometry stale. -/
  | staled (hi : s.inited = true) (he : s.en = false) (hg : s.geomOf s.lw s.lh = none) :
      CommandEffect s .recompute ({ s with geomValid := false }.setResult .errConfig false)
  /-- `SET_XFORM` stores its operands and marks the geometry stale. -/
  | transformed (scale : Nat) (rot : Bool) (he : s.en = false) : CommandEffect s (.setXform scale rot)
      ({ s with scale := scaleField scale, rot := rot, geomValid := false }.setResult .ok false)
  /-- `RECOMPUTE` loads the geometry of the session. -/
  | recomputed (g : Geometry Int) (hi : s.inited = true) (he : s.en = false) (hg : s.geomOf s.lw s.lh = some g) :
      CommandEffect s .recompute ((s.loadGeometry g).setResult .ok false)
  /-- `INIT` begins a session. -/
  | begun (pol : Policy) (w h : Nat) (g : Geometry Int) (hi : s.inited = false) (ha : s.allocOk = true)
      (hg : s.geomOf (dimField w) (dimField h) = some g) :
      CommandEffect s (.init pol w h) ((s.beginSession pol (dimField w) (dimField h) g).setResult .ok false)
  /-- `ENABLE` enables the display. -/
  | enabled (hi : s.inited = true) (hg : s.geomValid = true) (he : s.en = false) :
      CommandEffect s .enable (({ s with en := true } : State).cursorStart.setResult .ok false)
  /-- `DISABLE` disables it. -/
  | disabled : CommandEffect s .disable ({ s with en := false }.setResult .ok false)
  /-- `SET_BACKLIGHT` stores its operand. -/
  | backlit (pct : Nat) :
      CommandEffect s (.setBacklight pct) ({ s with backlight := BitVec.ofNat 7 pct }.setResult .ok false)
  /-- `TEARDOWN` ends the session. -/
  | ended (hi : s.inited = true) (he : s.en = false) : CommandEffect s .teardown (s.endSession.setResult .ok false)
  /-- The command is held. -/
  | held (i : Instr) (p : Held) (hheld : isHeldBy i s) (hp : p ≠ .none) (hpol : p = .publish → s.policy = .tearfree) :
      CommandEffect s i { s with pend := p }
  /-- `PUBLISH` hands the back frame over. -/
  | handedOver (f : Bool) (hi : s.inited = true) (hf : f = !s.front) (hfree : ¬ isHeldBy (.publish f) s) :
      CommandEffect s (.publish f) (s.handoff f)
  /-- `WAIT_VSYNC` or `POLL_VSYNC` consumes `FR`. -/
  | consumed (i : Instr) (hi : s.inited = true) (hfree : ¬ isHeldBy i s) (hcode : resultCodeOf i s = .ok) :
      CommandEffect s i ((s.consume .fr).setResult .ok s.fr)

theorem geomOf_eq_none_iff (s : State) (w h : BitVec 13) :
    s.geomOf w h = none ↔ geomError w.toNat h.toNat s.par.pw s.par.ph s.scale.toNat = true :=
  GeometryProof.calcGeom_eq_none_iff ..

/-- Only `WAIT_VSYNC` and `PUBLISH` wait. -/
theorem not_isHeldBy {i : Instr} (s : State) (hw : i ≠ .waitVsync) (hp : ∀ f, i ≠ .publish f) : ¬ isHeldBy i s := by
  rintro ⟨-, -, h | ⟨f, h, -⟩⟩
  · exact hw h
  · exact hp f h

theorem isHeldBy_publish_iff (f : Bool) (s : State) :
    isHeldBy (.publish f) s ↔ s.inited = true ∧ s.fr = false ∧ f = (!s.front) ∧ s.policy = .tearfree := by
  have hne : f ≠ s.front ↔ f = !s.front := by cases f <;> cases s.front <;> decide
  simp [isHeldBy, ← hne]

theorem isHeldBy_waitVsync_iff (s : State) : isHeldBy .waitVsync s ↔ s.inited = true ∧ s.fr = false := by
  simp [isHeldBy]

/-- The command's step answers a next state, by one of the effects listed. -/
def HasEffect (i : Instr) (s : State) : Prop := ∃ t, exec i s = .next t ∧ CommandEffect s i t

theorem init_hasEffect (pol : Policy) (w h : Nat) (s : State) : HasEffect (.init pol w h) s := by
  have hfree : ¬ isHeldBy (.init pol w h) s := not_isHeldBy s (by simp) (by simp)
  have herr : (Instr.init pol w h).wf = true →
      (s.geomOf (dimField w) (dimField h) = none ↔ geomError w h s.par.pw s.par.ph s.scale.toNat = true) := by
    intro hwf
    simp only [Instr.wf, Bool.and_eq_true, decide_eq_true_eq] at hwf
    rw [geomOf_eq_none_iff, toNat_dimField hwf.1, toNat_dimField hwf.2]
  simp only [HasEffect, exec, execInit]
  split
  next hi => exact ⟨_, rfl, .refused _ _ hfree fun _ => by simp [resultCodeOf, hi]⟩
  next hi =>
    split
    next hg => exact ⟨_, rfl, .refused _ _ hfree fun hwf => by simp [resultCodeOf, hi, (herr hwf).mp hg]⟩
    next g hg =>
      have hok : (Instr.init pol w h).wf = true → ¬ geomError w h s.par.pw s.par.ph s.scale.toNat = true := by
        intro hwf
        simp [← herr hwf, hg]
      split
      next ha =>
        have hno : s.allocOk = false := by simpa using ha
        exact ⟨_, rfl, .refused _ _ hfree fun hwf => by simp [resultCodeOf, hi, hok hwf, hno]⟩
      next ha => exact ⟨_, rfl, .begun pol w h g (by simpa using hi) (by simpa using ha) hg⟩

theorem recompute_hasEffect (s : State) : HasEffect .recompute s := by
  have hfree : ¬ isHeldBy .recompute s := not_isHeldBy s (by simp) (by simp)
  by_cases h : s.inited = false ∨ s.en = true
  · exact ⟨_, (recomputeFailures s).1 h, .refused _ _ hfree fun _ => by simp [resultCodeOf, h]⟩
  · obtain ⟨hi, he⟩ : s.inited = true ∧ s.en = false := by simpa using h
    cases hg : s.geomOf s.lw s.lh with
    | none => exact ⟨_, (recomputeFailures s).2 hi he hg, .staled hi he hg⟩
    | some g => exact ⟨_, exec_recompute hi he hg, .recomputed g hi he hg⟩

theorem enable_hasEffect (s : State) : HasEffect .enable s := by
  have hfree : ¬ isHeldBy .enable s := not_isHeldBy s (by simp) (by simp)
  obtain ⟨hnew, hon, hrefused, -⟩ := enableAndDisable s
  by_cases h : s.inited = false ∨ s.geomValid = false
  · exact ⟨_, hrefused h, .refused _ _ hfree fun _ => by simp [resultCodeOf, h]⟩
  · obtain ⟨hi, hg⟩ : s.inited = true ∧ s.geomValid = true := by simpa using h
    cases he : s.en
    · exact ⟨_, hnew hi hg he, .enabled hi hg he⟩
    · exact ⟨_, hon hi hg he, .noted _ _ hfree fun _ => by simp [resultCodeOf, h]⟩

theorem acquire_hasEffect (s : State) : HasEffect .acquire s := by
  have hfree : ¬ isHeldBy .acquire s := not_isHeldBy s (by simp) (by simp)
  cases hi : s.inited
  · exact ⟨_, (acquireReportsBackFrame s).2 hi, .refused _ _ hfree fun _ => by simp [resultCodeOf, hi]⟩
  · exact ⟨_, (acquireReportsBackFrame s).1 hi, .noted _ _ hfree fun _ => by simp [resultCodeOf, hi]⟩

theorem publish_hasEffect (f : Bool) (s : State) : HasEffect (.publish f) s := by
  obtain ⟨hnow, hheld, hrefused⟩ := publishHandsOverBackFrame s f
  by_cases hno : s.inited = false ∨ f = s.front
  · refine ⟨_, hrefused hno, .refused _ _ ?_ fun _ => by simp [resultCodeOf, hno]⟩
    rw [isHeldBy_publish_iff]
    rcases hno with h | h <;> simp [h]
  · obtain ⟨hi, hf⟩ : s.inited = true ∧ f = !s.front := by
      rw [not_or] at hno
      exact ⟨by simpa using hno.1, by simpa [Bool.eq_not_iff] using hno.2⟩
    by_cases hwait : s.policy = .tearfree ∧ s.fr = false
    · exact ⟨_, hheld hi hf hwait.1 hwait.2,
        .held _ _ ((isHeldBy_publish_iff f s).mpr ⟨hi, hwait.2, hf, hwait.1⟩) (by simp) (fun _ => hwait.1)⟩
    · refine ⟨_, hnow hi hf ?_, .handedOver f hi hf (fun h => ?_)⟩
      · cases hp : s.policy
        · exact .inl rfl
        · exact .inr (by simpa [hp] using hwait)
      · obtain ⟨-, hfr, -, hp⟩ := (isHeldBy_publish_iff f s).mp h
        exact hwait ⟨hp, hfr⟩

theorem waitVsync_hasEffect (s : State) : HasEffect .waitVsync s := by
  obtain ⟨hnow, hheld, hrefused⟩ := waitVsyncConsumesFrameReady s
  cases hi : s.inited
  · exact ⟨_, hrefused hi, .refused _ _ (by simp [isHeldBy_waitVsync_iff, hi]) fun _ => by simp [resultCodeOf, hi]⟩
  · cases hf : s.fr
    · exact ⟨_, hheld hi hf, .held _ _ ((isHeldBy_waitVsync_iff s).mpr ⟨hi, hf⟩) (by simp) (by simp)⟩
    · have h := CommandEffect.consumed (s := s) .waitVsync hi (by simp [isHeldBy_waitVsync_iff, hf])
        (by simp [resultCodeOf, hi])
      rw [hf] at h
      exact ⟨_, hnow hi hf, h⟩

theorem pollVsync_hasEffect (s : State) : HasEffect .pollVsync s := by
  have hfree : ¬ isHeldBy .pollVsync s := not_isHeldBy s (by simp) (by simp)
  cases hi : s.inited
  · exact ⟨_, (pollVsyncNeverWaits s).2 hi, .refused _ _ hfree fun _ => by simp [resultCodeOf, hi]⟩
  · exact ⟨_, exec_pollVsync hi, .consumed _ hi hfree (by simp [resultCodeOf, hi])⟩

theorem setXform_hasEffect (scale : Nat) (rot : Bool) (s : State) : HasEffect (.setXform scale rot) s := by
  cases he : s.en
  · exact ⟨_, exec_setXform scale rot he, .transformed scale rot he⟩
  · exact ⟨_, if_pos he, .refused _ _ (not_isHeldBy s (by simp) (by simp)) fun _ => by simp [resultCodeOf, he]⟩

theorem setBacklight_hasEffect (pct : Nat) (s : State) : HasEffect (.setBacklight pct) s := by
  by_cases h : pct ≤ 100
  · exact ⟨_, exec_setBacklight h, .backlit pct⟩
  · exact ⟨_, if_neg h, .noted _ _ (not_isHeldBy s (by simp) (by simp)) fun _ => rfl⟩

theorem teardown_hasEffect (s : State) : HasEffect .teardown s := by
  by_cases h : s.inited = false ∨ s.en = true
  · exact ⟨_, (teardownReversesInit s).2 h, .refused _ _ (not_isHeldBy s (by simp) (by simp)) fun _ => by
      simp [resultCodeOf, h]⟩
  · obtain ⟨hi, he⟩ : s.inited = true ∧ s.en = false := by simpa using h
    exact ⟨_, exec_teardown hi he, .ended hi he⟩

/-- Every command completes or is held, and what it does is one of the effects listed. -/
theorem exec_effect (i : Instr) (hport : i.port = .cmd) (s : State) : HasEffect i s := by
  cases i with
  | line buf ur => cases hport
  | disable => exact ⟨_, rfl, .disabled⟩
  | init pol w h => exact init_hasEffect pol w h s
  | recompute => exact recompute_hasEffect s
  | enable => exact enable_hasEffect s
  | acquire => exact acquire_hasEffect s
  | publish f => exact publish_hasEffect f s
  | waitVsync => exact waitVsync_hasEffect s
  | pollVsync => exact pollVsync_hasEffect s
  | setXform scale rot => exact setXform_hasEffect scale rot s
  | setBacklight pct => exact setBacklight_hasEffect pct s
  | teardown => exact teardown_hasEffect s

theorem effect_of_exec {i : Instr} {s t : State} (hport : i.port = .cmd) (h : exec i s = .next t) : CommandEffect s i t := by
  obtain ⟨t', ht, heff⟩ := exec_effect i hport s
  rw [ht] at h
  cases h
  exact heff

/-! #### What follows for every command -/

/-- A command that is not held completes with the code of the table, and `PEND` stays. -/
theorem code_pend_of_effect {i : Instr} {s t : State} (hwf : i.wf = true) (hfree : ¬ isHeldBy i s) (h : CommandEffect s i t) :
    t.result.code = resultCodeOf i s ∧ t.pend = s.pend := by
  cases h with
  | noted _ v _ hcode => exact ⟨(hcode hwf).symm, rfl⟩
  | refused _ c _ hcode => exact ⟨(hcode hwf).symm, rfl⟩
  | staled hi he hg => exact ⟨by simp [resultCodeOf, hi, he, (geomOf_eq_none_iff s _ _).mp hg], rfl⟩
  | transformed scale rot he => exact ⟨by simp [resultCodeOf, he], rfl⟩
  | recomputed g hi he hg =>
    have hok : ¬ geomError s.lw.toNat s.lh.toNat s.par.pw s.par.ph s.scale.toNat = true := by
      simp [← geomOf_eq_none_iff, hg]
    exact ⟨by simp [resultCodeOf, hi, he, hok], by simp⟩
  | begun pol w h g hi ha hg =>
    simp only [Instr.wf, Bool.and_eq_true, decide_eq_true_eq] at hwf
    have hok : ¬ geomError w h s.par.pw s.par.ph s.scale.toNat = true := by
      rw [← GeometryProof.calcGeom_eq_none_iff _ _ _ _ _ s.rot, ← geomOf_dimField s hwf.1 hwf.2, hg]
      simp
    exact ⟨by simp [resultCodeOf, hi, ha, hok], by simp⟩
  | enabled hi hg he => exact ⟨by simp [resultCodeOf, hi, hg], rfl⟩
  | disabled => exact ⟨rfl, rfl⟩
  | backlit pct => exact ⟨rfl, rfl⟩
  | ended hi he => exact ⟨by simp [resultCodeOf, hi, he], rfl⟩
  | held _ p hheld => exact absurd hheld hfree
  | handedOver f hi hf => exact ⟨by simp [resultCodeOf, hi, hf], rfl⟩
  | consumed _ hi _ hcode => exact ⟨hcode.symm, by simp⟩

/-- Settles O52: by the effects; a held command has the one effect on `PEND`. -/
theorem everyCommandGivesItsCode : Obligations.EveryCommandGivesItsCode := by
  intro i s hport hwf
  obtain ⟨t, ht, heff⟩ := exec_effect i hport s
  refine ⟨fun hfree => ⟨t, ht, code_pend_of_effect hwf hfree heff⟩, fun hheld => ?held⟩
  case held =>
    cases heff with
    | held _ p _ hp => exact ⟨p, hp, ht⟩
    | noted _ _ hfree => exact absurd hheld hfree
    | refused _ _ hfree => exact absurd hheld hfree
    | handedOver f _ _ hfree => exact absurd hheld hfree
    | consumed _ _ hfree => exact absurd hheld hfree
    | _ => exact absurd hheld (not_isHeldBy s (by simp) (by simp))

/-- Settles O53: the effects that report another code than `OK` are a refusal and a `RECOMPUTE` that marks the geometry stale. -/
theorem failedCommandChangesOnlyResult : Obligations.FailedCommandChangesOnlyResult := by
  intro i s t hport _ hfree ht hcode
  cases effect_of_exec hport ht with
  | refused _ c => exact ⟨rfl, .inl rfl⟩
  | staled => exact ⟨rfl, .inr ⟨rfl, rfl, rfl⟩⟩
  | held _ p hheld => exact absurd hheld hfree
  | _ => exact absurd rfl hcode

/-- Settles O54: the effects that write the configuration, the geometry, the cursor or memory need a disabled display or no
session. -/
theorem commandsLeaveEngineStateWhileEnabled : Obligations.CommandsLeaveEngineStateWhileEnabled := by
  intro i s t hport hi he ht
  cases effect_of_exec hport ht with
  | begun _ _ _ _ hi' => simp [hi] at hi'
  | staled _ he' => simp [he] at he'
  | transformed _ _ he' => simp [he] at he'
  | recomputed _ _ he' => simp [he] at he'
  | enabled _ _ he' => simp [he] at he'
  | ended _ he' => simp [he] at he'
  | _ => simp

end Sys2Proof.CommandProof
end

section
/-! PROOFS of 40_geometry.md R123 and R138 and 44_lifecycle.md, the loading of a geometry. `INIT` and `RECOMPUTE` load one in the same way; what
the memories hold afterwards is `State.load_loadGeometry` and `State.load_beginSession`. -/

namespace Sys2Proof.SessionProof

open Sys2Proof
open Sys2Proof.Machine
open Sys2Proof.CommandProof

/-- Both line buffers read 0 in both views. -/
def LineBuffersZero (s : State) : Prop :=
  ∀ a, (∃ b, inLineBuffer s.par b a) → s.mem.load a = some 0 ∧ s.lbEng.load a = some 0

/-- Line buffers that read 0 are black, to the engine and within a session to the display. -/
theorem LineBuffersZero.black {s : State} (h : LineBuffersZero s) {b : Bool} {x : Nat} (hx : x < s.par.pw) :
    s.enginePixel? b x = some 0x0000 ∧ (s.inited = true → s.devicePixel b x = 0x0000) := by
  obtain ⟨hlo, hhi⟩ := inLineBuffer_pixel s.par b x hx
  exact State.pixel_zero s b x (h _ ⟨b, hlo⟩) (h _ ⟨b, hhi⟩)

theorem loadGeometry_lineBuffersZero (s : State) (g : Geometry Int) (c : ResultCode) (v : Bool) :
    LineBuffersZero ((s.loadGeometry g).setResult c v) := by
  intro a ha
  simpa using (State.load_loadGeometry s g a).1 (by simpa using ha)

theorem beginSession_lineBuffersZero (s : State) (pol : Policy) (w h : BitVec 13) (g : Geometry Int) (c : ResultCode)
    (v : Bool) : LineBuffersZero ((s.beginSession pol w h g).setResult c v) := by
  intro a ha
  simpa using (State.load_beginSession s pol w h g a).1 (by simpa using ha)

theorem not_inLineBuffer_iff (p : Params) (b : Bool) (a : Nat) :
    ¬ inLineBuffer p b a ↔ a < lbAddr p b 0 ∨ lbAddr p b p.pw ≤ a := by
  unfold inLineBuffer
  omega

/-- Settles O23: the success of `RECOMPUTE`, field by field, and the memories by the law of a loaded geometry. -/
theorem recomputeLoadsGeometry : Obligations.RecomputeLoadsGeometry := by
  intro s g hi he hg
  refine ⟨_, exec_recompute hi he hg, ?fields, fun b x hx => ?black, fun a ha => ?frame⟩
  case fields => apply State.ext_fields <;> simp
  case black =>
    obtain ⟨heng, hdev⟩ := (loadGeometry_lineBuffersZero s g .ok false).black (b := b) (x := x) (by simpa using hx)
    exact ⟨heng, hdev (by simpa using hi)⟩
  case frame =>
    simpa using (State.load_loadGeometry s g a).2 fun b => (not_inLineBuffer_iff s.par b a).mpr (ha b)

/-- Settles O46: the success of `INIT`, field by field, and the memories by the law of a session's beginning. -/
theorem initBeginsSession : Obligations.InitBeginsSession := by
  intro s pol w h g hwf hi ha hg
  simp only [Instr.wf, Bool.and_eq_true, decide_eq_true_eq] at hwf
  obtain ⟨hw, hh⟩ := hwf
  rw [← geomOf_dimField s hw hh] at hg
  refine ⟨_, exec_init pol hi ha hg, ?width, ?height, ?fields, fun b x hx => ?black, fun a hlb hfb => ?frame⟩
  case width => simpa using toNat_dimField hw
  case height => simpa using toNat_dimField hh
  case fields => apply State.ext_fields <;> simp
  case black =>
    obtain ⟨heng, hdev⟩ :=
      (beginSession_lineBuffersZero s pol (dimField w) (dimField h) g .ok false).black (b := b) (x := x) (by simpa using hx)
    exact ⟨heng, hdev (by simp)⟩
  case frame =>
    have hload := (State.load_beginSession s pol (dimField w) (dimField h) g a).2 fun b =>
      (not_inLineBuffer_iff s.par b a).mpr (hlb b)
    rw [toNat_dimField hw, toNat_dimField hh, if_neg] at hload
    · simpa using hload
    · rintro ⟨f, hlo, hhi⟩
      have := hfb f
      omega

/-- A `RECOMPUTE` that reports `OK` loaded the geometry of the session. -/
theorem loaded_of_exec_recompute {s t : State} (ht : exec .recompute s = .next t) (hcode : t.result.code = .ok) :
    ∃ g, s.inited = true ∧ s.en = false ∧ s.geomOf s.lw s.lh = some g ∧ t = (s.loadGeometry g).setResult .ok false := by
  obtain ⟨hrefused, hstale⟩ := recomputeFailures s
  by_cases h : s.inited = false ∨ s.en = true
  · rw [hrefused h] at ht
    cases ht
    cases hcode
  · obtain ⟨hi, he⟩ : s.inited = true ∧ s.en = false := by simpa using h
    cases hg : s.geomOf s.lw s.lh with
    | none =>
      rw [hstale hi he hg] at ht
      cases ht
      cases hcode
    | some g =>
      rw [exec_recompute hi he hg] at ht
      cases ht
      exact ⟨g, hi, he, rfl, rfl⟩

/-- Settles O25: `RECOMPUTE` writes nothing that it reads, so the second one loads the same geometry. -/
theorem recomputeIsIdempotent : Obligations.RecomputeIsIdempotent := by
  intro s t ht hcode
  obtain ⟨g, hi, he, hg, rfl⟩ := loaded_of_exec_recompute ht hcode
  refine ⟨_, exec_recompute (g := g) (by simpa using hi) (by simpa using he) ?_, ?_⟩
  · simpa [State.geomOf, State.scaleFactor] using hg
  · simp

/-- Settles O50: what `TEARDOWN` does not clear, `PEND` and `SYNC`, is 0 by the invariants and the premise. -/
theorem teardownLeavesResetRegisters : Obligations.TeardownLeavesResetRegisters := by
  intro s t off hinv hp hi he ht hresult hxform hbacklight
  rw [exec_teardown hi he] at ht
  cases ht
  have hstatus : (s.endSession.setResult .ok false).statusWord = (State.resetWith s.par).statusWord := by
    simp [State.statusWord, State.resetWith, he, hp, hinv.scanning]
  unfold State.hostReg
  split
  case h_1 => contradiction
  case h_2 => exact hstatus
  case h_5 => contradiction
  case h_18 => contradiction
  all_goals rfl

end Sys2Proof.SessionProof
end

section
/-! PROOFS of 30_encoding.md section 6, 43_handoff.md R186 and 70_reset_and_hazards.md R260, the ports and reset: what one step does with the head of the
schedule. -/

namespace Sys2Proof.PortProof

open Sys2Proof
open Sys2Proof.Machine
open Sys2Proof.LifecycleProof (SelectsNoRow issue_of_selectsNoRow cmdWrite_of_free)

/-! #### The command port and the host agent's turn, case by case -/

theorem issue_of_decode {w : Word} {i : Instr} (h : decode .cmd w = .ok i) (s : State) : issue w s = exec i s := by
  rw [issue, h]

theorem evtWrite_of_decode {w : Word} {i : Instr} (h : decode .evt w = .ok i) (s : State) : evtWrite w s = exec i s := by
  rw [evtWrite, h]

theorem cmdWrite_of_busy (w : Word) {s : State} (hp : s.pend ≠ .none) :
    cmdWrite w s = .next { s with stalled := s.stalled ++ [w] } := if_neg hp

theorem cmdWrite_of_waiting (v : Word) {w : Word} {ws : List Word} {s : State} (hp : s.pend = .none)
    (hst : s.stalled = w :: ws) : cmdWrite v s = issue w { s with stalled := ws ++ [v] } := by
  simp [cmdWrite, hp, hst]

theorem hostTurn_of_rst {s : State} (hr : s.rstIn = true) : hostTurn s = .next s := if_pos hr

theorem hostTurn_of_waiting {w : Word} {ws : List Word} {s : State} (hr : s.rstIn = false) (hp : s.pend = .none)
    (hst : s.stalled = w :: ws) : hostTurn s = issue w { s with stalled := ws } := by
  simp [hostTurn, hr, hp, hst]

theorem hostTurn_of_idle {s : State} (hp : s.pend = .none) (hst : s.stalled = []) : hostTurn s = .next s := by
  simp [hostTurn, hp, hst]

theorem hostTurn_of_ready {s : State} (hr : s.rstIn = false) (hp : s.pend ≠ .none) (hf : s.fr = true) :
    hostTurn s = .next s.commitHeld := by
  simp [hostTurn, hr, hp, hf]

theorem hostTurn_of_held {s : State} (hp : s.pend ≠ .none) (hf : s.fr = false) : hostTurn s = .next s := by
  simp [hostTurn, hp, hf]

theorem perform_hostWrite_of_rst (off width : Nat) (v : Word) {s : State} (hr : s.rstIn = true) :
    perform (.hostWrite off width v) s = .next s := by
  simp [perform, hr]

theorem perform_evtWrite_of_rst (off width : Nat) (v : Word) {s : State} (hr : s.rstIn = true) :
    perform (.evtWrite off width v) s = .next s := by
  simp [perform, hr]

/-- A register block takes 4-byte writes to offset 0 only. -/
theorem not_port_access {off width : Nat} (h : ¬ (off = 0x0 ∧ width = 4)) : (wordAccess off width && off == 0x0) = false := by
  by_cases ho : off = 0x0
  · have hw : width ≠ 4 := fun hw => h ⟨ho, hw⟩
    simp [wordAccess, hw]
  · simp [ho]

theorem perform_hostWrite_ignored {off width : Nat} (v : Word) (s : State) (h : ¬ (off = 0x0 ∧ width = 4)) :
    perform (.hostWrite off width v) s = .next s := by
  simp [perform, Bool.and_assoc, not_port_access h]

theorem perform_evtWrite_ignored {off width : Nat} (v : Word) (s : State) (h : ¬ (off = 0x0 ∧ width = 4)) :
    perform (.evtWrite off width v) s = .next s := by
  simp [perform, Bool.and_assoc, not_port_access h]

/-- A step that writes a word to `CMD`, with `rst` low. -/
theorem step_cmdWrite {s : State} {w : Word} {rest : List AgentStep} (hs : s.schedule = .hostWrite 0x0 4 w :: rest)
    (hr : s.rstIn = false) : step s = cmdWrite w { s with schedule := rest } :=
  (step_cons s _ rest hs).trans (perform_cmdWrite w _ hr)

theorem step_evtWrite {s : State} {w : Word} {rest : List AgentStep} (hs : s.schedule = .evtWrite 0x0 4 w :: rest)
    (hr : s.rstIn = false) : step s = evtWrite w { s with schedule := rest } :=
  (step_cons s _ rest hs).trans (perform_evtWrite w _ hr)

/-- A step that gives the host agent its turn. -/
theorem step_hostTurn {s : State} {rest : List AgentStep} (hs : s.schedule = .hostTurn :: rest) :
    step s = hostTurn { s with schedule := rest } := step_cons s _ rest hs

/-! #### The statements about the ports -/

/-- Settles O5: the port is free, so the word is issued at once; `EVT` takes its word in every state. -/
theorem stepRunsDecodedInstruction : Obligations.StepRunsDecodedInstruction := by
  constructor
  · intro s w i rest hs hr hp hst hd
    exact ((step_cmdWrite hs hr).trans (cmdWrite_of_free w hp hst)).trans (issue_of_decode hd _)
  · intro s w i rest hs hr hd
    exact (step_evtWrite hs hr).trans (evtWrite_of_decode hd _)

/-- Settles O8: the busy branch of the command port. -/
theorem writeToBusyPortIsStalled : Obligations.WriteToBusyPortIsStalled := by
  intro s w rest hs hr hp
  exact (step_cmdWrite hs hr).trans (cmdWrite_of_busy w hp)

theorem commitHeld_of_publish {s : State} (hp : s.pend = .publish) :
    s.commitHeld = { s.handoff (!s.front) with pend := .none } := by
  simp [State.commitHeld, hp]

theorem commitHeld_of_waitVsync {s : State} (hp : s.pend = .waitVsync) :
    s.commitHeld = { s.takeVsync with pend := .none } := by
  simp [State.commitHeld, hp]

/-- Settles O9: the commit of each held command, and the turn with `FR = 0`. -/
theorem commitOfHeldCommand : Obligations.CommitOfHeldCommand := by
  intro s rest hs hr
  refine ⟨fun hp hf => ?_, fun hp hf => ?_, fun hp hf => ?_⟩
  · refine ((step_hostTurn hs).trans (hostTurn_of_ready hr (by simp [hp]) hf)).trans ?_
    rw [commitHeld_of_publish (s := { s with schedule := rest }) hp]
    simp [State.handoff, State.consume, State.give, State.setResult, hf]
  · refine ((step_hostTurn hs).trans (hostTurn_of_ready hr (by simp [hp]) hf)).trans ?_
    rw [commitHeld_of_waitVsync (s := { s with schedule := rest }) hp]
    rfl
  · exact (step_hostTurn hs).trans (hostTurn_of_held hp hf)

/-- A commit clears `PEND` and `FR`, reports `OK` with 1 and leaves the writes that wait. -/
theorem commitHeld_fields {s : State} (hp : s.pend ≠ .none) (hf : s.fr = true) :
    s.commitHeld.pend = .none ∧ s.commitHeld.fr = false ∧ s.commitHeld.result = ⟨.ok, true⟩ ∧
    s.commitHeld.stalled = s.stalled ∧ s.commitHeld.rstIn = s.rstIn ∧ s.commitHeld.schedule = s.schedule := by
  cases hq : s.pend with
  | none => exact absurd hq hp
  | publish => simp [commitHeld_of_publish hq, hf]
  | waitVsync => simp [commitHeld_of_waitVsync hq]

/-- What a word does once the command port takes it: the command it decodes to, or the refusal of a word without a CMD row. -/
theorem issue_cases (w : Word) (s : State) :
    (∀ i, decode .cmd w = .ok i → issue w s = exec i s) ∧
    ((∀ r ∈ opcodeMap, r.port = .cmd → r.selects w = false) → issue w s = .next { s with result := ⟨.errUnsupported, false⟩ }) :=
  ⟨fun _ hd => issue_of_decode hd s, fun h => issue_of_selectsNoRow h s⟩

/-- Settles O10: a turn with a free port, or a write to it, issues the oldest write that waits. -/
theorem stalledWriteIsIssuedAfterCommit : Obligations.StalledWriteIsIssuedAfterCommit := by
  refine ⟨?afterCommit, ?inTurn, ?behindWrite⟩
  case afterCommit =>
    intro s w ws rest hs hr hp hf hst
    have hstep := (step_hostTurn hs).trans (hostTurn_of_ready hr hp hf)
    obtain ⟨hpend, hfr, hres, hstalled, hrst, hsched⟩ :=
      commitHeld_fields (s := { s with schedule := .hostTurn :: rest }) hp hf
    generalize ({ s with schedule := .hostTurn :: rest } : State).commitHeld = u at *
    have hissue : Host.Core.run core 2 s = issue w { u with schedule := rest, stalled := ws } := by
      rw [run_succ_of_next 1 s u hstep, run_one]
      exact (step_hostTurn hsched).trans (hostTurn_of_waiting (hrst.trans hr) hpend (hstalled.trans hst))
    rw [hissue]
    exact ⟨u, run_one_of_next s u hstep, hpend, hfr, hres, hstalled.trans hst, issue_cases w _⟩
  case inTurn =>
    intro s w ws rest hs hr hp hst
    rw [(step_hostTurn hs).trans (hostTurn_of_waiting hr hp hst)]
    exact issue_cases w _
  case behindWrite =>
    intro s v w ws rest hs hr hp hst
    rw [(step_cmdWrite hs hr).trans (cmdWrite_of_waiting v hp hst)]
    exact issue_cases w _

theorem wordAccess_iff (off width : Nat) : wordAccess off width = true ↔ width = 4 ∧ off % 4 = 0 := by
  simp [wordAccess]

/-- Settles O11: the two register maps, and the writes that reach no port. -/
theorem portAccesses : Obligations.PortAccesses := by
  refine ⟨?hostRead, ?evtRead, ?hostMap, ?evtMap, ?ignored⟩
  case hostRead =>
    intro s off width rest hs
    simp only [step_cons s _ rest hs, perform, wordAccess_iff]
    rfl
  case evtRead =>
    intro s off width rest hs
    simp only [step_cons s _ rest hs, perform, wordAccess_iff]
    rfl
  case hostMap =>
    intro s off h
    unfold State.hostReg
    split
    case h_19 => rfl
    all_goals omega
  case evtMap =>
    intro s off h
    unfold State.evtReg
    split
    · contradiction
    · rfl
  case ignored =>
    rintro s off width v rest (hs | hs) h
    · rw [step_cons s _ rest hs, perform_hostWrite_ignored v _ h]
    · rw [step_cons s _ rest hs, perform_evtWrite_ignored v _ h]

/-! #### Reset -/

/-- The words of the registers with fields do not depend on the parameters, but for `PANEL`. -/
theorem resetWith_words (p : Params) : (State.resetWith p).resultWord = 0 ∧ (State.resetWith p).statusWord = 0 ∧
    (State.resetWith p).cfgDimWord = 0 ∧ (State.resetWith p).xformWord = 1 := by
  have hreset : (State.resetWith Config.params).resultWord = 0 ∧ (State.resetWith Config.params).statusWord = 0 ∧
    (State.resetWith Config.params).cfgDimWord = 0 ∧ (State.resetWith Config.params).xformWord = 1 := by decide
  exact hreset

theorem resetWith_hostReg (p : Params) (off : Nat) : (State.resetWith p).hostReg off =
    if off = 0x10 then (State.resetWith p).panelWord else if off = 0x14 then 1 else 0 := by
  obtain ⟨hresult, hstatus, hdim, hxform⟩ := resetWith_words p
  unfold State.hostReg
  split
  case h_1 => exact hresult
  case h_2 => exact hstatus
  case h_3 => exact hdim
  case h_5 => exact hxform
  case h_19 =>
    have hpanel : off ≠ 0x10 := by assumption
    have hxform : off ≠ 0x14 := by assumption
    rw [if_neg hpanel, if_neg hxform]
  all_goals rfl

/-- Settles O14: the register map of the state after reset. -/
theorem resetRegisterValues : Obligations.ResetRegisterValues := by
  intro p
  refine ⟨resetWith_hostReg p, fun off => ?evt, rfl, fun f i => ?frames, rfl⟩
  case evt =>
    unfold State.evtReg
    split <;> rfl
  case frames => cases f <;> rfl

/-- Settles O15: the state that `rst` gives differs from reset in fields no register shows; while `rst` is 1 both ports and the
host's turn do nothing. -/
theorem resetFromAnyState : Obligations.ResetFromAnyState := by
  refine ⟨?asserted, ?dropped⟩
  case asserted =>
    intro s rest hs
    refine ⟨({ s with schedule := rest } : State).assertReset, step_cons s _ rest hs, fun off => rfl, fun off => ?_, rfl, rfl,
      rfl, rfl, rfl, rfl, rfl, rfl, rfl⟩
    obtain ⟨-, hevt, -⟩ := resetRegisterValues s.par
    exact hevt off
  case dropped =>
    rintro s e rest hs hr (rfl | ⟨off, width, v, rfl⟩ | ⟨off, width, v, rfl⟩)
    · exact (step_hostTurn hs).trans (hostTurn_of_rst hr)
    · exact (step_cons s _ rest hs).trans (perform_hostWrite_of_rst off width v hr)
    · exact (step_cons s _ rest hs).trans (perform_evtWrite_of_rst off width v hr)

end Sys2Proof.PortProof
end

section
/-! PROOFS, one step of the machine. `step_effect` says once what a step of any agent can do; the statements about every step follow from it by
cases. -/

namespace Sys2Proof.StepProof

open Sys2Proof
open Sys2Proof.Machine
open Sys2Proof.CommandProof
open Sys2Proof.PortProof

/-- The state with its books brought up to date: the step is off the schedule, and what the environment alone drives or reads,
and the writes that wait, are what the step leaves. -/
def withBooks (s : State) (stalled : List Word) (bus : Word) (allocOk rstIn : Bool) : State :=
  { s with schedule := s.schedule.tail, stalled := stalled, bus := bus, allocOk := allocOk, rstIn := rstIn }

/-- What a step does to the state whose books are up to date; `head` is the step performed, if the schedule names one. -/
inductive StepEffect (head : Option AgentStep) (u : State) : State → Prop
  /-- Nothing but the books. -/
  | quiet : StepEffect head u u
  /-- A command the port has accepted. -/
  | command {t : State} (i : Instr) (hp : u.pend = .none) (h : CommandEffect u i t) : StepEffect head u t
  /-- A word the port has accepted that is no command. -/
  | unsupported (hp : u.pend = .none) : StepEffect head u (u.setResult .errUnsupported false)
  /-- The commit of the held command. -/
  | committed (hp : u.pend ≠ .none) (hf : u.fr = true) : StepEffect head u u.commitHeld
  /-- An accepted line event. -/
  | scanned (buf ur : Bool) (hi : u.inited = true) (he : u.en = true) : StepEffect head u (u.scanLine buf ur)
  /-- The producer writes a pixel of a frame. -/
  | framePixel (f : Bool) (i : Nat) (v : Pixel) (hex : u.hasFramePixel f i = true) :
      StepEffect head u { u with mem := u.mem.store (fbAddr u.par f i) (pixelBytes v) }
  /-- The producer writes a pixel of a line buffer. -/
  | linePixel (b : Bool) (x : Nat) (v : Pixel) (hhead : head = some (.lbWrite b x v)) (hex : x < u.par.pw) :
      StepEffect head u { u with
        mem := u.mem.store (lbAddr u.par b x) (pixelBytes v), lbEng := u.lbEng.store (lbAddr u.par b x) (pixelBytes v) }
  /-- `rst` is asserted. -/
  | reset (hhead : head = some (.rst true)) : StepEffect head u u.assertReset

variable {head : Option AgentStep} {s t : State}

/-- A word the free command port takes is a command or is refused. -/
theorem effect_of_issue {w : Word} (hp : s.pend = .none) (h : issue w s = .next t) : StepEffect head s t := by
  unfold issue at h
  split at h
  next i hd =>
    have hport := ((OpcodeMapProof.decode_eq_ok_iff .cmd w i).mp hd).2
    exact .command i hp (effect_of_exec hport h)
  next =>
    cases h
    exact .unsupported hp

/-- A word on the event port is a line event or is ignored. -/
theorem effect_of_evtWrite {w : Word} (h : evtWrite w s = .next t) : StepEffect head s t := by
  unfold evtWrite at h
  split at h
  next i hd =>
    have hport := ((OpcodeMapProof.decode_eq_ok_iff .evt w i).mp hd).2
    cases i with
    | line buf ur =>
      rw [ScanoutProof.exec_line] at h
      cases h
      split
      next hacc =>
        rw [Bool.and_eq_true] at hacc
        exact .scanned buf ur hacc.1 hacc.2
      next => exact .quiet
    | _ => cases hport
  next =>
    cases h
    exact .quiet

/-- A write that reaches the command port changes the writes that wait, and may issue one. -/
theorem effect_of_cmdWrite {w : Word} (h : cmdWrite w s = .next t) :
    ∃ ws, StepEffect head { s with stalled := ws } t := by
  by_cases hp : s.pend = .none
  · by_cases hst : s.stalled = []
    · rw [LifecycleProof.cmdWrite_of_free w hp hst] at h
      exact ⟨s.stalled, effect_of_issue hp h⟩
    · obtain ⟨w', ws, hst⟩ := List.exists_cons_of_ne_nil hst
      rw [cmdWrite_of_waiting w hp hst] at h
      exact ⟨_, effect_of_issue (s := { s with stalled := ws ++ [w] }) hp h⟩
  · rw [cmdWrite_of_busy w hp] at h
    cases h
    exact ⟨_, .quiet⟩

/-- The host agent's turn may commit the held command or issue the oldest write that waits. -/
theorem effect_of_hostTurn (h : hostTurn s = .next t) : ∃ ws, StepEffect head { s with stalled := ws } t := by
  by_cases hr : s.rstIn = true
  · rw [hostTurn_of_rst hr] at h
    cases h
    exact ⟨s.stalled, .quiet⟩
  by_cases hp : s.pend = .none
  · by_cases hst : s.stalled = []
    · rw [hostTurn_of_idle hp hst] at h
      cases h
      exact ⟨s.stalled, .quiet⟩
    · obtain ⟨w, ws, hst⟩ := List.exists_cons_of_ne_nil hst
      rw [hostTurn_of_waiting (by simpa using hr) hp hst] at h
      exact ⟨ws, effect_of_issue (s := { s with stalled := ws }) hp h⟩
  · by_cases hf : s.fr = true
    · rw [hostTurn_of_ready (by simpa using hr) hp hf] at h
      cases h
      exact ⟨s.stalled, .committed hp hf⟩
    · rw [hostTurn_of_held hp (by simpa using hf)] at h
      cases h
      exact ⟨s.stalled, .quiet⟩

/-- What performing one agent's step can do. -/
theorem effect_of_perform {e : AgentStep} {s t : State} (h : perform e s = .next t) :
    ∃ ws b a r, StepEffect (some e) { s with stalled := ws, bus := b, allocOk := a, rstIn := r } t := by
  cases e with
  | hostWrite off width v =>
    simp only [perform] at h
    split at h
    · obtain ⟨ws, hws⟩ := effect_of_cmdWrite h
      exact ⟨ws, s.bus, s.allocOk, s.rstIn, hws⟩
    · cases h
      exact ⟨s.stalled, s.bus, s.allocOk, s.rstIn, .quiet⟩
  | evtWrite off width v =>
    simp only [perform] at h
    split at h
    · exact ⟨s.stalled, s.bus, s.allocOk, s.rstIn, effect_of_evtWrite h⟩
    · cases h
      exact ⟨s.stalled, s.bus, s.allocOk, s.rstIn, .quiet⟩
  | hostTurn =>
    obtain ⟨ws, hws⟩ := effect_of_hostTurn (s := s) h
    exact ⟨ws, s.bus, s.allocOk, s.rstIn, hws⟩
  | hostRead off width =>
    cases h
    exact ⟨s.stalled, _, s.allocOk, s.rstIn, .quiet⟩
  | evtRead off width =>
    cases h
    exact ⟨s.stalled, _, s.allocOk, s.rstIn, .quiet⟩
  | fbWrite f i v =>
    simp only [perform] at h
    split at h
    next hex =>
      cases h
      exact ⟨s.stalled, s.bus, s.allocOk, s.rstIn, .framePixel f i v hex⟩
    next => cases h
  | fbRead f i =>
    simp only [perform] at h
    split at h <;> cases h
    exact ⟨s.stalled, _, s.allocOk, s.rstIn, .quiet⟩
  | lbWrite b x v =>
    simp only [perform] at h
    split at h
    next hex =>
      cases h
      exact ⟨s.stalled, s.bus, s.allocOk, s.rstIn, .linePixel b x v rfl (by simpa [State.hasLinePixel] using hex)⟩
    next => cases h
  | lbRead b x =>
    simp only [perform] at h
    split at h <;> cases h
    exact ⟨s.stalled, _, s.allocOk, s.rstIn, .quiet⟩
  | alloc ok =>
    cases h
    exact ⟨s.stalled, s.bus, ok, s.rstIn, .quiet⟩
  | rst level =>
    cases level with
    | true =>
      cases h
      exact ⟨s.stalled, s.bus, s.allocOk, s.rstIn, .reset rfl⟩
    | false =>
      cases h
      exact ⟨s.stalled, s.bus, s.allocOk, false, .quiet⟩

/-- What any step can do: one of the effects listed, on the state with its books up to date. -/
theorem step_effect (h : step s = .next t) : ∃ ws b a r, StepEffect s.schedule.head? (withBooks s ws b a r) t := by
  cases hs : s.schedule with
  | nil =>
    rw [step_nil s hs] at h
    obtain ⟨ws, hws⟩ := effect_of_hostTurn (head := none) h
    refine ⟨ws, s.bus, s.allocOk, s.rstIn, ?_⟩
    simpa [withBooks, hs] using hws
  | cons e rest =>
    rw [step_cons s e rest hs] at h
    obtain ⟨ws, b, a, r, heff⟩ := effect_of_perform h
    refine ⟨ws, b, a, r, ?_⟩
    simpa [withBooks, hs] using heff

/-! #### Memories stay canonical, and the parameters stay -/

theorem loadGeometry_canonical (g : Geometry Int) (h : s.Canonical) : (s.loadGeometry g).Canonical :=
  State.zeroFill_wf _ h.1 h.2

theorem beginSession_canonical (pol : Policy) (w h : BitVec 13) (g : Geometry Int) (hs : s.Canonical) :
    (s.beginSession pol w h g).Canonical := by
  let s1 := ({ s with lw := w, lh := h, policy := pol }).newFrames
  let s2 := { s1 with front := false, fbValid0 := true, fbValid1 := true, lastb := .none }
  have hnew : ((s2.give .fr).give .ack).Canonical :=
    ⟨State.newFrames_wf { s with lw := w, lh := h, policy := pol } hs.1, hs.2⟩
  exact loadGeometry_canonical g hnew

/-- The commands that write memory are `INIT` and `RECOMPUTE`. -/
theorem command_keeps_canonical {i : Instr} (heff : CommandEffect s i t) (h : s.Canonical) : t.Canonical ∧ t.par = s.par := by
  cases heff with
  | recomputed g => exact ⟨loadGeometry_canonical g h, by simp⟩
  | begun pol w h' g => exact ⟨beginSession_canonical pol (dimField w) (dimField h') g h, by simp⟩
  | consumed => exact ⟨by simpa [State.Canonical] using h, by simp⟩
  | _ => exact ⟨h, rfl⟩

theorem scanLine_canonical (buf ur : Bool) (h : s.Canonical) : (s.scanLine buf ur).Canonical := by
  obtain ⟨hm, hl⟩ := State.scanLine_mem s buf ur
  have hwf := State.produceLine_wf (s.recoverUnderrun ur) buf (by simpa using h.1) (by simpa using h.2)
  rwa [← hm, ← hl] at hwf

section Commit

variable (u : State)

@[simp] theorem commitHeld_par : u.commitHeld.par = u.par := by unfold State.commitHeld; split <;> rfl
@[simp] theorem commitHeld_policy : u.commitHeld.policy = u.policy := by unfold State.commitHeld; split <;> rfl
@[simp] theorem commitHeld_geom : u.commitHeld.geom = u.geom := by unfold State.commitHeld; split <;> rfl
@[simp] theorem commitHeld_geomValid : u.commitHeld.geomValid = u.geomValid := by unfold State.commitHeld; split <;> rfl
@[simp] theorem commitHeld_scale : u.commitHeld.scale = u.scale := by unfold State.commitHeld; split <;> rfl
@[simp] theorem commitHeld_mem : u.commitHeld.mem = u.mem := by unfold State.commitHeld; split <;> rfl
@[simp] theorem commitHeld_lbEng : u.commitHeld.lbEng = u.lbEng := by unfold State.commitHeld; split <;> rfl
@[simp] theorem commitHeld_schedule : u.commitHeld.schedule = u.schedule := by unfold State.commitHeld; split <;> rfl

end Commit

/-- Settles O57: every effect on a memory is a store, a copy or a forgetting, and none writes the parameters. -/
theorem stepKeepsMemoriesCanonical : Obligations.StepKeepsMemoriesCanonical := by
  intro s t h hstep
  obtain ⟨ws, b, a, r, heff⟩ := step_effect hstep
  have hu : (withBooks s ws b a r).Canonical := h
  cases heff with
  | quiet => exact ⟨hu, rfl⟩
  | command i _ hc =>
    have hkept := command_keeps_canonical hc hu
    exact hkept
  | unsupported => exact ⟨hu, rfl⟩
  | committed =>
    exact ⟨by simpa [State.Canonical] using hu, commitHeld_par _⟩
  | scanned buf ur => exact ⟨scanLine_canonical buf ur hu, State.scanLine_par ..⟩
  | framePixel => exact ⟨⟨Memory.store_wf _ _ _ hu.1, hu.2⟩, rfl⟩
  | linePixel => exact ⟨⟨Memory.store_wf _ _ _ hu.1, Memory.store_wf _ _ _ hu.2⟩, rfl⟩
  | reset => exact ⟨hu, rfl⟩

/-! #### The front frame and the two signals within a session -/

/-- The commit of a held command takes `FR`; a held `PUBLISH` hands the back frame over as `PUBLISH` does. -/
theorem commitHeld_signals (hp : s.pend ≠ .none) (hf : s.fr = true) :
    s.commitHeld.fr = false ∧ s.commitHeld.result = ⟨.ok, s.fr⟩ ∧
    (s.commitHeld.front = s.front ∧ s.commitHeld.ack = s.ack ∨ s.commitHeld.front = (!s.front) ∧ s.commitHeld.ack = true) := by
  cases hq : s.pend with
  | none => exact absurd hq hp
  | publish => simp [commitHeld_of_publish hq]
  | waitVsync => simp [commitHeld_of_waitVsync hq, hf]

/-- What a step within a session can do to the front frame and the two signals: nothing, consume `FR`, hand a frame over, or
scan a line. -/
inductive SignalEffect (u t : State) : Prop
  | kept (hfront : t.front = u.front) (hfr : t.fr = u.fr) (hack : t.ack = u.ack)
  | consumed (hfront : t.front = u.front) (hfr : t.fr = false) (hack : t.ack = u.ack)
  | handedOver (hfront : t.front = !u.front) (hfr : t.fr = false) (hack : t.ack = true) (hres : t.result = ⟨.ok, u.fr⟩)
  | scanned (buf ur : Bool) (hi : u.inited = true) (he : u.en = true) (ht : t = u.scanLine buf ur)

theorem command_signals {i : Instr} (heff : CommandEffect s i t) (hi : s.inited = true) (ht : t.inited = true) :
    SignalEffect s t := by
  cases heff with
  | begun _ _ _ _ hi' => simp [hi] at hi'
  | ended => cases ht
  | handedOver f _ hf => exact .handedOver hf rfl rfl rfl
  | consumed => exact .consumed rfl rfl rfl
  | recomputed g => exact .kept (by simp) (by simp) (by simp)
  | _ => exact .kept rfl rfl rfl

theorem step_signals (hstep : step s = .next t) (hi : s.inited = true) (ht : t.inited = true) :
    ∃ ws b a r, SignalEffect (withBooks s ws b a r) t := by
  obtain ⟨ws, b, a, r, heff⟩ := step_effect hstep
  refine ⟨ws, b, a, r, ?_⟩
  cases heff with
  | command i _ hc => exact command_signals hc hi ht
  | committed hp hf =>
    obtain ⟨hfr, hres, ⟨hfront, hack⟩ | ⟨hfront, hack⟩⟩ := commitHeld_signals hp hf
    · exact .consumed hfront hfr hack
    · exact .handedOver hfront hfr hack hres
  | scanned buf ur hi he => exact .scanned buf ur hi he rfl
  | reset => cases ht
  | _ => exact .kept rfl rfl rfl

/-- Settles O44: of the effects on the signals only a handoff changes the front frame. -/
theorem frontChangesOnlyInHandoff : Obligations.FrontChangesOnlyInHandoff := by
  intro s t hstep hi ht hne
  obtain ⟨ws, b, a, r, heff⟩ := step_signals hstep hi ht
  cases heff with
  | handedOver _ hfr hack hres => exact ⟨hfr, hack, hres⟩
  | kept hfront => exact absurd hfront hne
  | consumed hfront => exact absurd hfront hne
  | scanned buf ur _ _ hscan => exact absurd (by simp [hscan, withBooks]) hne

open SynchronizerProof in
/-- Where a line gives `FR` it has ended a frame in `SIGNAL_READY`. -/
theorem scanLine_gives_fr {buf ur : Bool} (hs : s.fr = false) (ht : (s.scanLine buf ur).fr = true) :
    (s.scanLine buf ur).lastb = .signalReady ∧ (s.scanLine buf ur).curCount = 0 ∧
    (s.scanLine buf ur).curSrc = s.geom.startOffset := by
  by_cases hend : EndsFrame s ur
  · rw [State.scanLine_fr, (frameDone_iff_endsFrame s buf ur).mpr hend] at ht
    have hready : s.policy = .throughput ∨ s.ack = true := by simpa [hs] using ht
    simp [(frameDone_iff_endsFrame s buf ur).mpr hend, hready]
  · rw [(scanLine_signals_of_not_endsFrame buf hend).1, hs] at ht
    cases ht

theorem scanLine_ack_of_clear (buf ur : Bool) (h : s.ack = false) : (s.scanLine buf ur).ack = false := by
  simp [h]

/-- Settles O45: of the effects on the signals only a line gives `FR`, and only a handoff gives `ACK`. -/
theorem oneSetterPerSignal : Obligations.OneSetterPerSignal := by
  intro s t hstep hi ht
  obtain ⟨ws, b, a, r, heff⟩ := step_signals hstep hi ht
  constructor
  · intro hs hfr
    cases heff with
    | kept _ hkept => exact absurd (hfr.symm.trans (hkept.trans hs)) (by decide)
    | consumed _ hkept => exact absurd (hfr.symm.trans hkept) (by decide)
    | handedOver _ hkept => exact absurd (hfr.symm.trans hkept) (by decide)
    | scanned buf ur _ _ hscan =>
      subst hscan
      obtain ⟨hlastb, hcount, hsrc⟩ := scanLine_gives_fr (s := withBooks s ws b a r) hs hfr
      exact ⟨hlastb, hcount, hsrc, State.scanLine_front ..⟩
  · intro hs hack
    cases heff with
    | kept _ _ hkept => exact absurd (hack.symm.trans (hkept.trans hs)) (by decide)
    | consumed _ _ hkept => exact absurd (hack.symm.trans (hkept.trans hs)) (by decide)
    | handedOver hfront hfr _ hres =>
      refine ⟨?_, hfr, by rw [hres]⟩
      rw [hfront]
      exact Bool.not_ne_self _
    | scanned buf ur _ _ hscan =>
      subst hscan
      exact absurd (hack.symm.trans (scanLine_ack_of_clear buf ur hs)) (by decide)

/-! #### Holding a frame under `TEARFREE` -/

theorem command_policy {i : Instr} (heff : CommandEffect s i t) (hi : s.inited = true) (ht : t.inited = true) :
    t.policy = s.policy := by
  cases heff with
  | begun _ _ _ _ hi' => simp [hi] at hi'
  | ended => cases ht
  | _ => simp

/-- Only `INIT`, `TEARDOWN` and reset write the policy. -/
theorem step_policy (hstep : step s = .next t) (hi : s.inited = true) (ht : t.inited = true) : t.policy = s.policy := by
  obtain ⟨ws, b, a, r, heff⟩ := step_effect hstep
  cases heff with
  | command i _ hc =>
    have hkept := command_policy hc hi ht
    exact hkept
  | committed => exact commitHeld_policy _
  | scanned buf ur => exact State.scanLine_policy ..
  | reset => cases ht
  | _ => rfl

/-- The hold of a front frame under `TEARFREE` goes on: nothing has given `FR` or `ACK`. -/
structure HoldKept (s t : State) : Prop where
  policy : t.policy = .tearfree
  fr : t.fr = s.fr
  ack : t.ack = false
  front : t.front = s.front
  lastb : s.lastb = .hold → t.lastb = .hold

/-- A line under `TEARFREE` without an acknowledgement, at a boundary or not. -/
theorem scanLine_holdKept (buf ur : Bool) (hp : s.policy = .tearfree) (ha : s.ack = false) : HoldKept s (s.scanLine buf ur) := by
  by_cases hend : SynchronizerProof.EndsFrame s ur
  · obtain ⟨hfr, hack, hlastb⟩ := SynchronizerProof.scanLine_signals_of_tearfree_hold buf hend hp ha
    exact ⟨by simpa using hp, hfr, hack, by simp, fun _ => hlastb⟩
  · obtain ⟨hfr, hack, hlastb⟩ := SynchronizerProof.scanLine_signals_of_not_endsFrame buf hend
    exact ⟨by simpa using hp, hfr, hack.trans ha, by simp, fun h => hlastb.trans h⟩

/-- Whatever word is written to `EVT`, the step answers a next state in which the hold goes on. -/
theorem step_eventWord {w : Word} {rest : List AgentStep} (hs : s.schedule = .evtWrite 0x0 4 w :: rest)
    (hp : s.policy = .tearfree) (ha : s.ack = false) :
    ∃ t, step s = .next t ∧ HoldKept s t ∧ t.schedule = rest := by
  have hsame : HoldKept s { s with schedule := rest } := ⟨hp, rfl, ha, rfl, id⟩
  by_cases hr : s.rstIn = true
  · exact ⟨_, (step_cons s _ rest hs).trans (perform_evtWrite_of_rst 0x0 4 w hr), hsame, rfl⟩
  rw [step_evtWrite hs (by simpa using hr)]
  cases hd : decode .evt w with
  | error e => exact ⟨_, by rw [evtWrite, hd], hsame, rfl⟩
  | ok i =>
    have hport := ((OpcodeMapProof.decode_eq_ok_iff .evt w i).mp hd).2
    cases i with
    | line buf ur =>
      rw [evtWrite_of_decode hd, ScanoutProof.exec_line]
      refine ⟨_, rfl, ?_⟩
      split
      · have hkept := scanLine_holdKept (s := { s with schedule := rest }) buf ur hp ha
        exact ⟨⟨hkept.policy, hkept.fr, hkept.ack, hkept.front, hkept.lastb⟩, State.scanLine_schedule ..⟩
      · exact ⟨hsame, rfl⟩
    | _ => cases hport

theorem run_eventWords (ws : List Word) (s : State) (rest : List AgentStep) (hp : s.policy = .tearfree) (ha : s.ack = false)
    (hs : s.schedule = eventWords ws ++ rest) :
    ∃ t : State, Host.Core.run core ws.length s = .next t ∧ HoldKept s t ∧ t.schedule = rest := by
  induction ws generalizing s with
  | nil => exact ⟨s, run_zero s, ⟨hp, rfl, ha, rfl, id⟩, hs⟩
  | cons w ws ih =>
    obtain ⟨u, hu, hsu, hsched⟩ := step_eventWord (w := w) (rest := eventWords ws ++ rest) hs hp ha
    obtain ⟨t, ht, hut, hrest⟩ := ih u hsu.policy hsu.ack hsched
    refine ⟨t, (run_succ_of_next ws.length s u hu).trans ht, ?_, hrest⟩
    exact ⟨hut.policy, hut.fr.trans hsu.fr, hut.ack, hut.front.trans hsu.front, fun h => hut.lastb (hsu.lastb h)⟩

/-- Settles O37: one step by its effect on the signals, and a stream of words by induction. -/
theorem tearFreeHoldLastsUntilPublish : Obligations.TearFreeHoldLastsUntilPublish := by
  refine ⟨?step, fun s ws rest hp ha hs => ?run⟩
  case step =>
    intro s t hstep hi ht hp ha hfront
    refine ⟨(step_policy hstep hi ht).trans hp, ?_⟩
    obtain ⟨ws, b, a, r, heff⟩ := step_signals hstep hi ht
    cases heff with
    | kept _ hfr hack => exact ⟨hack.trans ha, fun h => hfr.trans h⟩
    | consumed _ hfr hack => exact ⟨hack.trans ha, fun _ => hfr⟩
    | handedOver hnew => exact absurd (hnew.symm.trans hfront) (Bool.not_ne_self _)
    | scanned buf ur _ _ hscan =>
      have hkept := scanLine_holdKept (s := withBooks s ws b a r) buf ur hp ha
      rw [← hscan] at hkept
      exact ⟨hkept.ack, fun h => hkept.fr.trans h⟩
  case run =>
    obtain ⟨t, ht, hkept, hrest⟩ := run_eventWords ws s rest hp ha hs
    exact ⟨t, ht, hkept.fr, hkept.ack, hkept.front, hkept.lastb, hrest⟩

/-! #### A held command that nothing can give `FR` -/

theorem command_schedule {i : Instr} (heff : CommandEffect s i t) : t.schedule = s.schedule := by
  cases heff <;> simp

/-- Every step takes the head off the schedule and leaves the rest. -/
theorem step_schedule (hstep : step s = .next t) : t.schedule = s.schedule.tail := by
  obtain ⟨ws, b, a, r, heff⟩ := step_effect hstep
  cases heff with
  | command i _ hc => exact command_schedule hc
  | committed => exact commitHeld_schedule _
  | scanned buf ur => exact State.scanLine_schedule ..
  | _ => rfl

/-- A command is held and no line event can give `FR` (70_reset_and_hazards.md R273 items 1 and 2). -/
structure Deadlocked (s : State) : Prop where
  held : s.pend ≠ .none
  fr : s.fr = false
  blocked : s.en = false ∨ (s.policy = .tearfree ∧ s.ack = false)

/-- A state that differs from a deadlocked one in nothing that could end the deadlock, or that its `STATUS` and `RESULT` show. -/
structure DeadlockKept (s t : State) : Prop where
  pend : t.pend = s.pend
  fr : t.fr = s.fr
  front : t.front = s.front
  result : t.result = s.result
  en : t.en = s.en
  policy : t.policy = s.policy
  ack : t.ack = s.ack

theorem DeadlockKept.deadlocked (h : DeadlockKept s t) (hs : Deadlocked s) : Deadlocked t :=
  ⟨h.pend ▸ hs.held, h.fr.trans hs.fr, by rw [h.en, h.policy, h.ack]; exact hs.blocked⟩

theorem DeadlockKept.trans {u : State} (h : DeadlockKept s t) (h' : DeadlockKept t u) : DeadlockKept s u :=
  ⟨h'.pend.trans h.pend, h'.fr.trans h.fr, h'.front.trans h.front, h'.result.trans h.result, h'.en.trans h.en,
    h'.policy.trans h.policy, h'.ack.trans h.ack⟩

/-- Of the effects of a step, the port's need it free and the commit needs `FR`; a line, if it is accepted at all, holds. -/
theorem step_keeps_deadlock (hs : Deadlocked s) (hrst : .rst true ∉ s.schedule) (hstep : step s = .next t) : DeadlockKept s t := by
  obtain ⟨ws, b, a, r, heff⟩ := step_effect hstep
  cases heff with
  | command i hp => exact absurd hp hs.held
  | unsupported hp => exact absurd hp hs.held
  | committed _ hf => exact absurd (hf.symm.trans hs.fr) (by decide)
  | scanned buf ur _ he =>
    rcases hs.blocked with hoff | ⟨hp, ha⟩
    · exact absurd (he.symm.trans hoff) (by decide)
    · have hkept := scanLine_holdKept (s := withBooks s ws b a r) buf ur hp ha
      exact ⟨State.scanLine_pend .., hkept.fr, hkept.front, State.scanLine_result .., State.scanLine_en ..,
        State.scanLine_policy .., hkept.ack.trans ha.symm⟩
  | reset hhead => exact absurd (List.mem_of_mem_head? hhead) hrst
  | _ => exact ⟨rfl, rfl, rfl, rfl, rfl, rfl, rfl⟩

theorem run_keeps_deadlock (n : Nat) (s t : State) (hs : Deadlocked s) (hrst : .rst true ∉ s.schedule)
    (hrun : Host.Core.run core n s = .next t) : DeadlockKept s t := by
  induction n generalizing s with
  | zero =>
    cases hrun
    exact ⟨rfl, rfl, rfl, rfl, rfl, rfl, rfl⟩
  | succ n ih =>
    obtain ⟨u, hstep, hrest⟩ := run_succ_next n s t hrun
    have hsu := step_keeps_deadlock hs hrst hstep
    have hrstu : .rst true ∉ u.schedule := by
      rw [step_schedule hstep]
      exact fun hmem => hrst (List.mem_of_mem_tail hmem)
    exact hsu.trans (ih u (hsu.deadlocked hs) hrstu hrest)

/-- Settles O43: the deadlock is an invariant of the runs in which `rst` is not asserted. -/
theorem deadlockedCommandStaysHeld : Obligations.DeadlockedCommandStaysHeld := by
  intro n s t hp hf hblocked hrst hrun
  have hkept := run_keeps_deadlock n s t ⟨hp, hf, hblocked⟩ hrst hrun
  exact ⟨hkept.pend, hkept.fr.trans hf, hkept.front, hkept.result, hkept.en⟩

end Sys2Proof.StepProof
end

section
/-! PROOFS of 10_state.md R49, the invariants. A valid geometry is one that `geom` computed, so its registers hold the ten values
(`valid_geometry`); the cursor then moves without leaving its register (`cursor_step`), and every effect of a step keeps the invariants. -/

namespace Sys2Proof.InvariantProof

open Sys2Proof
open Sys2Proof.Machine
open Sys2Proof.CommandProof
open Sys2Proof.StepProof
open Sys2Proof.GeometryProof
open Sys2Proof.SynchronizerProof

variable {s t : State}

/-! #### What an accepted line does to the registers -/

theorem exec_line_of_accepted (buf ur : Bool) (hi : s.inited = true) (he : s.en = true) :
    exec (.line buf ur) s = .next (s.scanLine buf ur) := by
  simp [ScanoutProof.exec_line, hi, he]

/-- The end-of-frame test on the cursor that underrun recovery leaves. -/
theorem endsFrame_iff (s : State) (ur : Bool) :
    EndsFrame s ur ↔ s.geom.linesPerFrame.toInt ≤ (((s.recoverUnderrun ur).curCount + 1).toNat : Int) := by
  rw [EndsFrame, State.recoverUnderrun_curCount]

/-- A line that ends its frame starts the cursor. -/
theorem scanLine_cursor_of_endsFrame (buf : Bool) {ur : Bool} (h : EndsFrame s ur) :
    (s.scanLine buf ur).curSrc = s.geom.startOffset ∧ (s.scanLine buf ur).curCount = 0 ∧ (s.scanLine buf ur).urf = false := by
  simp [frameDone_iff_endsFrame, h]

/-- A line inside its frame moves the cursor on from where underrun recovery leaves it. -/
theorem scanLine_cursor_of_not_endsFrame (buf : Bool) {ur : Bool} (h : ¬ EndsFrame s ur) :
    (s.scanLine buf ur).curSrc = (s.recoverUnderrun ur).curSrc + s.geom.increment ∧
    (s.scanLine buf ur).curCount = (s.recoverUnderrun ur).curCount + 1 ∧ (s.scanLine buf ur).urf = (ur || s.urf) := by
  simp [frameDone_iff_endsFrame, h]

/-- Settles O27: the cursor of an accepted line, at the end of a frame and inside it. -/
theorem lineAdvancesCursor : Obligations.LineAdvancesCursor := by
  intro s buf ur hi he
  refine ⟨s.scanLine buf ur, exec_line_of_accepted buf ur hi he, State.scanLine_rearm .., ?_⟩
  intro src count
  split
  next hend => exact scanLine_cursor_of_endsFrame buf hend
  next hinside =>
    have hcursor := scanLine_cursor_of_not_endsFrame buf hinside
    rwa [State.recoverUnderrun_curSrc, State.recoverUnderrun_curCount] at hcursor

/-- Settles O29: the registers a line does not name are unchanged, and its memory is that of one line write. -/
theorem lineFrame : Obligations.LineFrame := by
  intro s buf ur t hi he ht
  obtain rfl := eq_scanLine_of_exec_line hi he ht
  refine ⟨by apply State.ext_fields <;> simp, ?_⟩
  intro r copied x0 x1 a ha
  obtain ⟨hm, hl⟩ := State.scanLine_mem s buf ur
  rw [hm, hl]
  by_cases hc : copied
  · rw [show x0 = s.dstFirst from if_pos hc, show x1 = s.dstFirst + s.sourceCount * s.scaleFactor from if_pos hc] at ha
    rw [ScanoutProof.produceLine_of_copied _ buf hc.1 hc.2]
    have hout := State.load_lineWrite_outside r buf r.dstFirst (replicatePixels r.scaleFactor r.sourceRun) a
      (by simpa [r, replicatePixels_length, sourceRun_length] using ha)
    rwa [show r.mem = s.mem from State.recoverUnderrun_mem .., show r.lbEng = s.lbEng from State.recoverUnderrun_lbEng ..]
      at hout
  · rw [show x0 = 0 from if_neg hc, show x1 = s.par.pw from if_neg hc] at ha
    have hblank : r.produceLine buf = r.blankLine buf := if_neg (by simpa [copied] using hc)
    rw [hblank]
    have hout : ¬ inLineBuffer r.par buf a := by
      unfold inLineBuffer
      simp only [r, State.recoverUnderrun_par]
      omega
    simpa [r] using (State.load_blankLine r buf a).2 hout

/-! #### A valid geometry and its cursor -/

/-- A geometry computed on a legal platform has its ten values within bounds. -/
theorem geomOf_withinBounds (hpar : s.par.Valid) {w h : BitVec 13} {g : Geometry Int} (hg : s.geomOf w h = some g) :
    WithinBounds w.toNat h.toNat g := by
  obtain ⟨⟨-, hpw⟩, ⟨-, hph⟩, -⟩ := hpar
  exact withinBounds hg (Nat.le_of_lt_succ w.isLt) (Nat.le_of_lt_succ h.isLt) hpw hph (Nat.le_of_lt_succ s.scale.isLt)

/-- With a valid geometry the registers hold what `geom` gives for the size and transformation in force. -/
theorem valid_geometry (hinv : s.Inv) (hv : s.geomValid = true) : ∃ g, s.geomOf s.lw s.lh = some g ∧
    WithinBounds s.lw.toNat s.lh.toNat g ∧ Holds s.geom g := by
  obtain ⟨-, g, hg, hregs⟩ := hinv.geometry hv
  have hb := geomOf_withinBounds hinv.params hg
  exact ⟨g, hg, hb, hregs ▸ toRegs_holds hb⟩

/-- One line further the cursor is one increment further, and has not left its register. -/
theorem cursor_step {w h n : Nat} {g : Geometry Int} {r : Geometry Word} {src : Word} (hb : WithinBounds w h g) (hr : Holds r g)
    (hsrc : src.toInt = r.startOffset.toInt + n * r.increment.toInt) (hn : (n : Int) + 1 ≤ r.linesPerFrame.toInt) :
    (src + r.increment).toInt = r.startOffset.toInt + (n + 1 : Nat) * r.increment.toInt := by
  obtain ⟨-, -, ⟨hstart, -⟩, ⟨hinc, -⟩, -, -, -, -, -, -, -, hlast⟩ := hb
  rw [hr.linesPerFrame] at hn
  rw [hr.startOffset, hr.increment] at hsrc ⊢
  have hmul : ((n : Int) + 1) * g.increment ≤ g.linesPerFrame * g.increment := mul_le_mul_of_nonneg_right hn (by omega)
  have hpos : 0 ≤ (n : Int) * g.increment := mul_nonneg (by omega) (by omega)
  rw [BitVec.toInt_add, hsrc, hr.increment]
  push_cast
  rw [add_mul, one_mul] at hmul ⊢
  rw [← add_assoc]
  exact Int.bmod_eq_of_le (by omega) (by omega)

/-- After underrun recovery the cursor is at a line's place, that of line 1 where the event carries the flag. -/
theorem recovered_cursor (hinv : s.Inv) (hv : s.geomValid = true) (ur : Bool) :
    ((s.recoverUnderrun ur).curCount.toNat : Int) ≤ s.geom.linesPerFrame.toInt ∧
    (s.recoverUnderrun ur).curSrc.toInt =
      s.geom.startOffset.toInt + (s.recoverUnderrun ur).curCount.toNat * s.geom.increment.toInt := by
  obtain ⟨g, -, hb, hr⟩ := valid_geometry hinv hv
  have hlines : 1 ≤ s.geom.linesPerFrame.toInt := hr.linesPerFrame ▸ hb.linesPerFrame.1
  cases ur with
  | false =>
    obtain ⟨hcount, hsrc⟩ := hinv.cursor hv
    exact ⟨hcount.le, hsrc⟩
  | true => exact ⟨hlines, cursor_step (n := 0) hb hr (by simp) (by simpa using hlines)⟩

/-- The counter does not leave its register. -/
theorem recovered_count_succ (hinv : s.Inv) (hv : s.geomValid = true) (ur : Bool) :
    ((s.recoverUnderrun ur).curCount + 1).toNat = (s.recoverUnderrun ur).curCount.toNat + 1 := by
  obtain ⟨g, -, hb, hr⟩ := valid_geometry hinv hv
  obtain ⟨hle, -⟩ := recovered_cursor hinv hv ur
  have hsmall : s.geom.linesPerFrame.toInt ≤ 8191 := hr.linesPerFrame ▸ hb.linesPerFrame.2
  rw [BitVec.toNat_add, show (1 : Word).toNat = 1 from rfl]
  exact Nat.mod_eq_of_lt (by omega)

/-- Every source index of a line that passes the span test lies in the frame (40_geometry.md R140 item 2). -/
theorem sourceIndex_in_frame (hinv : s.Inv) (he : s.en = true) {ur : Bool} (hvalid : (s.recoverUnderrun ur).sourceValid = true)
    {j : Nat} (hj : (j : Int) < s.geom.lineWidth.toInt) :
    0 ≤ (s.recoverUnderrun ur).sourceIndex j ∧ (s.recoverUnderrun ur).sourceIndex j < s.framePixels := by
  obtain ⟨-, hv⟩ := hinv.enabled he
  obtain ⟨g, hg, -, hr⟩ := valid_geometry hinv hv
  obtain ⟨-, hsrc⟩ := recovered_cursor hinv hv ur
  obtain ⟨-, -, hspan⟩ := (ScanoutProof.sourceValid_iff _).mp hvalid
  rw [State.recoverUnderrun_geom] at hspan
  rw [State.sourceIndex, State.recoverUnderrun_geom]
  rw [hsrc, hr.startOffset, hr.increment] at hspan ⊢
  rw [hr.validSpan] at hspan
  rw [hr.lineWidth] at hj
  rw [hr.lineBase, hr.stride, State.framePixels]
  exact_mod_cast sourceIndex_mem_frame hg hspan hj

/-- The written range of a row fits the line buffer (40_geometry.md R140 item 1). -/
theorem row_in_lineBuffer (hinv : s.Inv) (hv : s.geomValid = true) : 1 ≤ s.geom.lineWidth.toInt ∧ 0 ≤ s.geom.dstStart.toInt ∧
    s.dstFirst + s.sourceCount * s.scaleFactor ≤ s.par.pw := by
  obtain ⟨g, hg, -, hr⟩ := valid_geometry hinv hv
  obtain ⟨hwidth, -, hdst, hfit, -⟩ := geometryStaysInBounds _ _ _ _ _ _ g hg
  rw [State.dstFirst, State.sourceCount, hr.lineWidth, hr.dstStart]
  refine ⟨hwidth, hdst, ?_⟩
  zify
  rw [Int.toNat_of_nonneg hdst, Int.toNat_of_nonneg (by omega)]
  exact hfit

/-- Settles O32: the cursor is a line's place, and `geom` keeps every row that passes the span test in bounds. -/
theorem acceptedRowAlwaysFits : Obligations.AcceptedRowAlwaysFits := by
  intro s ur hinv he hvalid
  obtain ⟨hwidth, hdst, hfit⟩ := row_in_lineBuffer hinv (hinv.enabled he).2
  obtain ⟨k, hk⟩ : ∃ k : Nat, s.geom.lineWidth.toInt - 1 = k := ⟨_, (Int.toNat_of_nonneg (by omega)).symm⟩
  have hfirst := sourceIndex_in_frame hinv he hvalid (j := 0) (by omega)
  have hlast := sourceIndex_in_frame hinv he hvalid (j := k) (by omega)
  simp only [State.rowFits, Bool.and_eq_true, decide_eq_true_eq, State.recoverUnderrun_geom, hk,
    ScanoutProof.recoverUnderrun_dstFirst, ScanoutProof.recoverUnderrun_sourceCount, ScanoutProof.recoverUnderrun_scaleFactor,
    State.recoverUnderrun_par, State.framePixels, State.recoverUnderrun_lw, State.recoverUnderrun_lh]
  exact ⟨⟨⟨⟨⟨⟨hwidth, hfirst.1⟩, hfirst.2⟩, hlast.1⟩, hlast.2⟩, hdst⟩, hfit⟩

/-! #### The invariants, effect by effect -/

/-- The invariants do not look at `RESULT`, `BACKLIGHT`, the memories, the input wires, `draw` or the books. -/
theorem inv_of_unseen (h : s.Inv) (ht : t = { s with
    result := t.result, backlight := t.backlight, mem := t.mem, lbEng := t.lbEng, allocOk := t.allocOk, rstIn := t.rstIn,
    draw := t.draw, schedule := t.schedule, stalled := t.stalled, bus := t.bus }) : t.Inv := by
  rw [ht]
  refine ⟨h.params, h.enabled, fun hi => ?_, h.session, h.geometry, h.cursor, h.held, h.heldPublish, h.scanning, h.rearm⟩
  obtain ⟨i1, i2, i3, i4, i5, i6, i7, i8, i9, i10, i11, i12, i13, i14, i15⟩ := h.idle hi
  exact ⟨i1, i2, i3, i4, i5, i6, i7, i8, i9, i10, i11, i12, i13, i14, i15⟩

/-- A cursor at the start of a valid geometry is a place of the frame. -/
theorem cursorInFrame_start (hlines : 1 ≤ s.geom.linesPerFrame.toInt) (hsrc : s.curSrc = s.geom.startOffset)
    (hcount : s.curCount = 0) : s.CursorInFrame := by
  rw [State.CursorInFrame, hsrc, hcount]
  simp
  omega

theorem linesPerFrame_pos (hinv : s.Inv) (hv : s.geomValid = true) : 1 ≤ s.geom.linesPerFrame.toInt := by
  obtain ⟨g, -, hb, hr⟩ := valid_geometry hinv hv
  exact hr.linesPerFrame ▸ hb.linesPerFrame.1

/-- The reset state meets the invariants on every legal platform. -/
theorem resetWith_inv {p : Params} (hp : p.Valid) : (State.resetWith p).Inv :=
  ⟨hp, by simp [State.resetWith], fun _ => ⟨rfl, rfl, rfl, rfl, rfl, rfl, rfl, rfl, rfl, rfl, rfl, rfl, rfl, rfl, rfl⟩,
    by simp [State.resetWith], by simp [State.resetWith], by simp [State.resetWith], by simp [State.resetWith],
    by simp [State.resetWith], rfl, rfl⟩

theorem scale_ne_zero_of_geomOf {w h : BitVec 13} {g : Geometry Int} (hg : s.geomOf w h = some g) : s.scale ≠ 0 := by
  obtain ⟨hz, -⟩ := (calcGeom_eq_some_iff _ _ _ _ _ _ g).mp hg
  rintro h0
  simpa [State.scaleFactor, h0] using hz.scale

/-- What a freshly loaded geometry gives the invariants: the registers are those of `geom`, and the cursor is at the start. -/
theorem loaded_geometry (hpar : t.par.Valid) {g : Geometry Int} (hg : t.geomOf t.lw t.lh = some g) (hgeom : t.geom = g.toRegs)
    (hsrc : t.curSrc = g.toRegs.startOffset) (hcount : t.curCount = 0) :
    (t.scale ≠ 0 ∧ ∃ g, t.geomOf t.lw t.lh = some g ∧ t.geom = g.toRegs) ∧ t.CursorInFrame := by
  have hb := geomOf_withinBounds hpar hg
  have hlines : 1 ≤ t.geom.linesPerFrame.toInt := by
    rw [hgeom, (toRegs_holds hb).linesPerFrame]
    exact hb.linesPerFrame.1
  exact ⟨⟨scale_ne_zero_of_geomOf hg, g, hg, hgeom⟩, cursorInFrame_start hlines (hgeom ▸ hsrc) hcount⟩

theorem recompute_keeps_inv (hinv : s.Inv) {g : Geometry Int} (hi : s.inited = true) (he : s.en = false)
    (hg : s.geomOf s.lw s.lh = some g) : (s.loadGeometry g).Inv := by
  obtain ⟨hgeom, hcursor⟩ := loaded_geometry (t := s.loadGeometry g) (g := g) (by simpa using hinv.params)
    (by simpa [State.geomOf, State.scaleFactor] using hg) (by simp) (by simp) (by simp)
  exact ⟨by simpa using hinv.params, by simp [he], by simp [hi], by simpa using hinv.session, fun _ => hgeom, fun _ => hcursor,
    by simp [hi], by simpa using hinv.heldPublish, by simpa using hinv.scanning, by simpa using hinv.rearm⟩

theorem init_keeps_inv (hinv : s.Inv) (pol : Policy) {w h : BitVec 13} {g : Geometry Int} (hi : s.inited = false)
    (hg : s.geomOf w h = some g) : (s.beginSession pol w h g).Inv := by
  obtain ⟨hz, -⟩ := (calcGeom_eq_some_iff _ _ _ _ _ _ g).mp hg
  obtain ⟨hgeom, hcursor⟩ := loaded_geometry (t := s.beginSession pol w h g) (g := g) (by simpa using hinv.params)
    (by simpa [State.geomOf, State.scaleFactor] using hg) (by simp) (by simp) (by simp)
  have hidle := hinv.idle hi
  exact ⟨by simpa using hinv.params, by simp [hidle.en], by simp, fun _ => ⟨by simp, by simp, by rw [State.beginSession_lw]; exact hz.width,
    by rw [State.beginSession_lh]; exact hz.height⟩, fun _ => hgeom, fun _ => hcursor, by simp, by simp [hidle.pend], by simpa using hinv.scanning,
    by simpa using hinv.rearm⟩

theorem stale_keeps_inv (hinv : s.Inv) (scale : BitVec 2) (rot : Bool) (he : s.en = false) :
    ({ s with scale := scale, rot := rot, geomValid := false } : State).Inv := by
  refine ⟨hinv.params, fun h => absurd (h.symm.trans he) (by decide), fun hi => ?_, hinv.session, nofun, nofun, hinv.held,
    hinv.heldPublish, hinv.scanning, hinv.rearm⟩
  obtain ⟨i1, -, i3, i4, i5, i6, i7, i8, i9, i10, i11, i12, i13, i14, i15⟩ := hinv.idle hi
  exact ⟨i1, rfl, i3, i4, i5, i6, i7, i8, i9, i10, i11, i12, i13, i14, i15⟩

theorem enable_keeps_inv (hinv : s.Inv) (hi : s.inited = true) (hv : s.geomValid = true) :
    ({ s with en := true } : State).cursorStart.Inv := by
  have hlines := linesPerFrame_pos hinv hv
  exact ⟨hinv.params, fun _ => ⟨hi, hv⟩, fun h => absurd (h.symm.trans hi) (by decide), hinv.session, hinv.geometry,
    fun _ => cursorInFrame_start hlines rfl rfl, hinv.held, hinv.heldPublish, hinv.scanning, hinv.rearm⟩

theorem disable_keeps_inv (hinv : s.Inv) : ({ s with en := false } : State).Inv := by
  refine ⟨hinv.params, nofun, fun hi => ?_, hinv.session, hinv.geometry, hinv.cursor, hinv.held, hinv.heldPublish, hinv.scanning,
    hinv.rearm⟩
  obtain ⟨-, i2, i3, i4, i5, i6, i7, i8, i9, i10, i11, i12, i13, i14, i15⟩ := hinv.idle hi
  exact ⟨rfl, i2, i3, i4, i5, i6, i7, i8, i9, i10, i11, i12, i13, i14, i15⟩

theorem teardown_keeps_inv (hinv : s.Inv) (he : s.en = false) (hp : s.pend = .none) : s.endSession.Inv :=
  ⟨hinv.params, fun h => absurd (h.symm.trans he) (by decide),
    fun _ => ⟨he, rfl, rfl, rfl, rfl, rfl, rfl, rfl, rfl, hp, rfl, rfl, rfl, rfl, rfl⟩, nofun, nofun, nofun,
    fun h => absurd hp h, fun h => absurd (h.symm.trans hp) (by decide), hinv.scanning, hinv.rearm⟩

/-- Within a session the front frame, the two signals and `RESULT` may change, and a command may be held or let go. -/
theorem handoff_keeps_inv (hinv : s.Inv) (hi : s.inited = true) (hpend : t.pend = .publish → s.policy = .tearfree)
    (ht : t = { s with front := t.front, fr := t.fr, ack := t.ack, pend := t.pend, result := t.result }) : t.Inv := by
  rw [ht]
  exact ⟨hinv.params, hinv.enabled, fun h => absurd (h.symm.trans hi) (by decide), hinv.session, hinv.geometry, hinv.cursor,
    fun _ => hi, hpend, hinv.scanning, hinv.rearm⟩

theorem commit_keeps_inv (hinv : s.Inv) (hp : s.pend ≠ .none) : s.commitHeld.Inv := by
  have hi := hinv.held hp
  cases hq : s.pend with
  | none => exact absurd hq hp
  | publish =>
    rw [PortProof.commitHeld_of_publish hq]
    exact handoff_keeps_inv hinv hi nofun rfl
  | waitVsync =>
    rw [PortProof.commitHeld_of_waitVsync hq]
    exact handoff_keeps_inv hinv hi nofun rfl

/-- A command that a free port has accepted keeps the invariants. -/
theorem command_keeps_inv {i : Instr} (hinv : s.Inv) (hp : s.pend = .none) (heff : CommandEffect s i t) : t.Inv := by
  cases heff with
  | noted => exact inv_of_unseen hinv rfl
  | refused => exact inv_of_unseen hinv rfl
  | staled hi he => exact inv_of_unseen (stale_keeps_inv hinv s.scale s.rot he) rfl
  | transformed scale rot he => exact inv_of_unseen (stale_keeps_inv hinv (scaleField scale) rot he) rfl
  | recomputed g hi he hg => exact inv_of_unseen (recompute_keeps_inv hinv hi he hg) rfl
  | begun pol w h g hi _ hg => exact inv_of_unseen (init_keeps_inv hinv pol hi hg) rfl
  | enabled hi hv => exact inv_of_unseen (enable_keeps_inv hinv hi hv) rfl
  | disabled => exact inv_of_unseen (disable_keeps_inv hinv) rfl
  | backlit => exact inv_of_unseen hinv rfl
  | ended hi he => exact inv_of_unseen (teardown_keeps_inv hinv he hp) rfl
  | held _ p hheld _ hpol => exact handoff_keeps_inv hinv hheld.1 hpol rfl
  | handedOver f hi => exact handoff_keeps_inv hinv hi (fun h => absurd (h.symm.trans hp) (by decide)) rfl
  | consumed _ hi => exact handoff_keeps_inv hinv hi (fun h => absurd (h.symm.trans hp) (by decide)) rfl

/-- A line event moves the cursor to the next line's place, or to the start at the end of the frame. -/
theorem scanLine_cursorInFrame (hinv : s.Inv) (hv : s.geomValid = true) (buf ur : Bool) : (s.scanLine buf ur).CursorInFrame := by
  by_cases hend : EndsFrame s ur
  · obtain ⟨hsrc, hcount, -⟩ := scanLine_cursor_of_endsFrame buf hend
    exact cursorInFrame_start (by simpa using linesPerFrame_pos hinv hv) (by simpa using hsrc) hcount
  · obtain ⟨g, -, hb, hr⟩ := valid_geometry hinv hv
    obtain ⟨hsrc, hcount, -⟩ := scanLine_cursor_of_not_endsFrame buf hend
    obtain ⟨hle, hplace⟩ := recovered_cursor hinv hv ur
    rw [endsFrame_iff, not_le] at hend
    rw [State.CursorInFrame, hsrc, hcount, State.scanLine_geom]
    rw [recovered_count_succ hinv hv] at hend ⊢
    exact ⟨hend, cursor_step hb hr hplace (by omega)⟩

theorem scanLine_keeps_inv (hinv : s.Inv) (hi : s.inited = true) (he : s.en = true) (buf ur : Bool) : (s.scanLine buf ur).Inv := by
  obtain ⟨-, hv⟩ := hinv.enabled he
  exact ⟨by simpa using hinv.params, by simpa using hinv.enabled, by simp [hi], by simpa using hinv.session,
    by simpa [State.geomOf, State.scaleFactor] using hinv.geometry, fun _ => scanLine_cursorInFrame hinv hv buf ur,
    by simp [hi], by simpa using hinv.heldPublish, scanLine_sync_of_scanning buf ur hinv.scanning, rfl⟩

/-- Settles O56: by the effects of a step, on the state with its books up to date. -/
theorem stepKeepsInvariants : Obligations.StepKeepsInvariants := by
  intro s t hinv hstep
  obtain ⟨ws, b, a, r, heff⟩ := step_effect hstep
  have hu : (withBooks s ws b a r).Inv := inv_of_unseen hinv rfl
  cases heff with
  | quiet => exact hu
  | command i hp hc => exact command_keeps_inv hu hp hc
  | unsupported => exact inv_of_unseen hu rfl
  | committed hp => exact commit_keeps_inv hu hp
  | scanned buf ur hi he => exact scanLine_keeps_inv hu hi he buf ur
  | framePixel => exact inv_of_unseen hu rfl
  | linePixel => exact inv_of_unseen hu rfl
  | reset => exact inv_of_unseen (resetWith_inv hinv.params) rfl

/-! #### Reset -/

/-- The windows of the model's own parameters lie far enough apart for the largest frames. -/
theorem config_windowsApart (s : State) (hs : s.par = Config.params) : s.WindowsApart := by
  have hn : s.framePixels ≤ 8191 * 8191 := Nat.mul_le_mul (Nat.le_of_lt_succ s.lw.isLt) (Nat.le_of_lt_succ s.lh.isLt)
  rw [State.WindowsApart, hs]
  generalize s.framePixels = n at hn
  simp [Params.WindowsApart, Params.pixelWindows, Params.registerWindows, Apart, Config.params]
  omega

/-- Settles O55: reset clears what the invariants speak of, and leaves no frame. -/
theorem resetMeetsInvariants : Obligations.ResetMeetsInvariants := by
  refine ⟨fun p hp => ⟨resetWith_inv hp, ⟨List.Pairwise.nil, List.Pairwise.nil⟩, fun b a _ _ => rfl, nofun, ?_⟩, by decide,
    config_windowsApart, rfl⟩
  exact State.windowsApart_of_noFrames (State.resetWith p) hp rfl

end Sys2Proof.InvariantProof
end

section
/-! PROOFS of 20_memory.md R72, R64 and 41_scanout.md R164, the line buffers and the frames in memory: which bytes a step can change, and which bytes a
line reads. -/

namespace Sys2Proof.MemoryProof

open Sys2Proof
open Sys2Proof.Machine
open Sys2Proof.CommandProof
open Sys2Proof.SessionProof
open Sys2Proof.StepProof
open Sys2Proof.InvariantProof

variable {s t : State}

/-! #### The two views agree -/

/-- A line write stores the same bytes in both views. -/
theorem lineWrite_keeps_agreement (s : State) (b : Bool) (x a : Nat) (vs : List Pixel) (h : s.mem.load a = s.lbEng.load a) :
    (s.lineWrite b x vs).mem.load a = (s.lineWrite b x vs).lbEng.load a := by
  rw [State.load_lineWrite_mem, State.load_lineWrite_lbEng, h]

theorem viewsAgree_of_same (h : s.ViewsAgree) (hpar : t.par = s.par) (hm : t.mem = s.mem) (hl : t.lbEng = s.lbEng) :
    t.ViewsAgree := by
  rw [State.ViewsAgree, hpar, hm, hl]
  exact h

theorem viewsAgree_of_zero (h : LineBuffersZero t) : t.ViewsAgree := by
  intro b a hlo hhi
  obtain ⟨hm, hl⟩ := h a ⟨b, hlo, hhi⟩
  rw [hm, hl]

theorem command_keeps_viewsAgree {i : Instr} (h : s.ViewsAgree) (heff : CommandEffect s i t) : t.ViewsAgree := by
  cases heff with
  | recomputed g => exact viewsAgree_of_zero (loadGeometry_lineBuffersZero s g .ok false)
  | begun pol w h' g => exact viewsAgree_of_zero (beginSession_lineBuffersZero s pol _ _ g .ok false)
  | _ => exact viewsAgree_of_same h rfl rfl rfl

theorem scanLine_keeps_viewsAgree (h : s.ViewsAgree) (buf ur : Bool) : (s.scanLine buf ur).ViewsAgree := by
  obtain ⟨hm, hl⟩ := State.scanLine_mem s buf ur
  intro b a hlo hhi
  rw [State.scanLine_par] at hlo hhi
  have hr : (s.recoverUnderrun ur).mem.load a = (s.recoverUnderrun ur).lbEng.load a := by
    simpa using h b a hlo hhi
  rw [hm, hl, State.produceLine]
  split
  · exact lineWrite_keeps_agreement _ _ _ _ _ hr
  · exact lineWrite_keeps_agreement _ _ _ _ _ hr

/-- A pixel of a frame lies outside both line buffers (20_memory.md R70). -/
theorem framePixel_outside_lineBuffer (hap : s.WindowsApart) {f b : Bool} {i a : Nat} (hi : s.hasFramePixel f i = true)
    (ha : inLineBuffer s.par b a) : a < fbAddr s.par f i ∨ fbAddr s.par f i + 2 ≤ a := by
  obtain ⟨-, hlt⟩ : s.fbValid f = true ∧ i < s.framePixels := by simpa [State.hasFramePixel] using hi
  obtain ⟨hlo, hhi⟩ := ha
  have hpw : 0 < s.par.pw := by
    unfold lbAddr at hlo hhi
    omega
  have hapart := State.frame_lineBuffer_apart s hap hpw (by omega) f b
  unfold fbAddr at hapart ⊢
  omega

/-- Settles O58: a line write and a zero fill leave the two views equal, and the producer's pixels lie elsewhere. -/
theorem stepKeepsViewsAgreeing : Obligations.StepKeepsViewsAgreeing := by
  intro s t hap h hstep
  obtain ⟨ws, b, a, r, heff⟩ := step_effect hstep
  have hu : (withBooks s ws b a r).ViewsAgree := h
  cases heff with
  | quiet => exact hu
  | command i _ hc => exact command_keeps_viewsAgree hu hc
  | unsupported => exact hu
  | committed => exact viewsAgree_of_same hu (commitHeld_par _) (commitHeld_mem _) (commitHeld_lbEng _)
  | scanned buf ur => exact scanLine_keeps_viewsAgree hu buf ur
  | framePixel f i v hex =>
    intro b' a' hlo hhi
    have hout := framePixel_outside_lineBuffer (s := withBooks s ws b a r) hap hex ⟨hlo, hhi⟩
    exact (Memory.load_store_outside _ _ (pixelBytes v) a' hout).trans (hu b' a' hlo hhi)
  | linePixel b' x v =>
    intro b'' a' hlo hhi
    have hsame := hu b'' a' hlo hhi
    simp only [Memory.load_store, hsame]
  | reset => exact hu

/-! #### The margins stay black -/

theorem enginePixel?_of_same (hpar : t.par = s.par) (hl : t.lbEng = s.lbEng) (b : Bool) (x : Nat) :
    t.enginePixel? b x = s.enginePixel? b x := by
  rw [State.enginePixel?, State.enginePixel?, hpar, hl]

theorem marginsBlack_of_same (h : s.MarginsBlack) (hpar : t.par = s.par) (hl : t.lbEng = s.lbEng)
    (hgeom : t.geom = s.geom) (hscale : t.scale = s.scale) (hv : t.geomValid = s.geomValid) : t.MarginsBlack := by
  intro ht b x hx hout
  rw [enginePixel?_of_same hpar hl]
  rw [State.dstFirst, State.sourceCount, State.scaleFactor, hgeom, hscale] at hout
  exact h (hv ▸ ht) b x (hpar ▸ hx) hout

theorem marginsBlack_of_stale (hv : t.geomValid = false) : t.MarginsBlack :=
  fun ht => absurd (ht.symm.trans hv) (by decide)

theorem marginsBlack_of_zero (h : LineBuffersZero t) : t.MarginsBlack := fun _ _ _ hx _ => (h.black hx).1

theorem command_keeps_marginsBlack {i : Instr} (h : s.MarginsBlack) (heff : CommandEffect s i t) : t.MarginsBlack := by
  cases heff with
  | recomputed g => exact marginsBlack_of_zero (loadGeometry_lineBuffersZero s g .ok false)
  | begun pol w h' g => exact marginsBlack_of_zero (beginSession_lineBuffersZero s pol _ _ g .ok false)
  | staled => exact marginsBlack_of_stale rfl
  | transformed => exact marginsBlack_of_stale rfl
  | ended => exact marginsBlack_of_stale rfl
  | _ => exact marginsBlack_of_same h rfl rfl rfl rfl rfl

/-- A pixel apart from the range of a line write is unchanged. -/
theorem enginePixel?_lineWrite_outside (s : State) (b b' : Bool) (x x0 : Nat) (vs : List Pixel)
    (h : lbAddr s.par b x + 2 ≤ lbAddr s.par b' x0 ∨ lbAddr s.par b' (x0 + vs.length) ≤ lbAddr s.par b x) :
    (s.lineWrite b' x0 vs).enginePixel? b x = s.enginePixel? b x := by
  rw [State.enginePixel?, State.enginePixel?, State.lineWrite_par,
    (State.load_lineWrite_outside s b' x0 vs (lbAddr s.par b x) (by omega)).2,
    (State.load_lineWrite_outside s b' x0 vs (lbAddr s.par b x + 1) (by omega)).2]

/-- A pixel of one line buffer lies apart from every range of the other. -/
theorem otherLineBuffer_apart {p : Params} (hp : p.Valid) {b b' : Bool} (hb : b ≠ b') {x x0 x1 : Nat} (hx : x < p.pw)
    (hx1 : x1 ≤ p.pw) : lbAddr p b x + 2 ≤ lbAddr p b' x0 ∨ lbAddr p b' x1 ≤ lbAddr p b x := by
  have hapart := Params.lineBuffers_apart p hp
  obtain rfl : b' = !b := (Bool.eq_not_of_ne hb.symm)
  cases b
  · show p.lb0Base + 2 * x + 2 ≤ p.lb1Base + 2 * x0 ∨ p.lb1Base + 2 * x1 ≤ p.lb0Base + 2 * x
    omega
  · show p.lb1Base + 2 * x + 2 ≤ p.lb0Base + 2 * x0 ∨ p.lb0Base + 2 * x1 ≤ p.lb1Base + 2 * x
    omega

theorem blankLine_black (s : State) (b : Bool) {x : Nat} (hx : x < s.par.pw) :
    (s.blankLine b).enginePixel? b x = some 0x0000 := by
  simpa [State.blankLine] using
    (ScanoutProof.lineWrite_pixel s b 0 x _ _ (ScanoutProof.blankRun_getElem? s.par.pw x hx)).1

theorem rowFits_le (h : s.rowFits = true) : s.dstFirst + s.sourceCount * s.scaleFactor ≤ s.par.pw := by
  simp only [State.rowFits, Bool.and_eq_true, decide_eq_true_eq] at h
  exact h.2

/-- The one line write of a line leaves a black pixel of the margins black, in the buffer it writes and in the other. -/
theorem produceLine_keeps_black (hpar : s.par.Valid) {b : Bool} (buf : Bool) {x : Nat} (hx : x < s.par.pw)
    (hout : x < s.dstFirst ∨ s.dstFirst + s.sourceCount * s.scaleFactor ≤ x) (hblack : s.enginePixel? b x = some 0x0000) :
    (s.produceLine buf).enginePixel? b x = some 0x0000 := by
  by_cases hc : s.sourceValid = true ∧ s.rowFits = true
  · have hlen : (replicatePixels s.scaleFactor s.sourceRun).length = s.sourceCount * s.scaleFactor := by
      rw [replicatePixels_length, sourceRun_length]
    rw [ScanoutProof.produceLine_of_copied s buf hc.1 hc.2, enginePixel?_lineWrite_outside, hblack]
    rw [hlen]
    by_cases hb : b = buf
    · subst hb
      unfold lbAddr
      omega
    · exact otherLineBuffer_apart hpar hb hx (rowFits_le hc.2)
  · rw [show s.produceLine buf = s.blankLine buf from if_neg (by simpa using hc)]
    by_cases hb : b = buf
    · subst hb
      exact blankLine_black s b hx
    · rw [State.blankLine, enginePixel?_lineWrite_outside, hblack]
      exact otherLineBuffer_apart hpar hb hx (by simp [blankRun])

theorem scanLine_keeps_marginsBlack (hinv : s.Inv) (h : s.MarginsBlack) (buf ur : Bool) : (s.scanLine buf ur).MarginsBlack := by
  intro hv b x hx hout
  simp only [State.scanLine_geomValid, State.scanLine_par] at hv hx
  have hout : x < s.dstFirst ∨ s.dstFirst + s.sourceCount * s.scaleFactor ≤ x := by
    simpa [State.dstFirst, State.sourceCount, State.scaleFactor] using hout
  rw [(ScanoutProof.scanLine_pixel s buf ur b x).1]
  refine produceLine_keeps_black (by simpa using hinv.params) buf (by simpa using hx) (by simpa using hout) ?_
  rw [enginePixel?_of_same (State.recoverUnderrun_par ..) (State.recoverUnderrun_lbEng ..)]
  exact h hv b x hx hout

/-- Settles O59: by the effects of a step; the one that writes a margin pixel is the producer's. -/
theorem stepKeepsMarginsBlack : Obligations.StepKeepsMarginsBlack := by
  intro s t hinv h hnot hstep
  obtain ⟨ws, b, a, r, heff⟩ := step_effect hstep
  have hu : (withBooks s ws b a r).MarginsBlack := marginsBlack_of_same h rfl rfl rfl rfl rfl
  cases heff with
  | quiet => exact hu
  | command i _ hc => exact command_keeps_marginsBlack hu hc
  | unsupported => exact marginsBlack_of_same hu rfl rfl rfl rfl rfl
  | committed =>
    exact marginsBlack_of_same hu (commitHeld_par _) (commitHeld_lbEng _) (commitHeld_geom _) (commitHeld_scale _)
      (commitHeld_geomValid _)
  | scanned buf ur => exact scanLine_keeps_marginsBlack (inv_of_unseen hinv rfl) hu buf ur
  | framePixel => exact marginsBlack_of_same hu rfl rfl rfl rfl rfl
  | linePixel b' x v hhead =>
    obtain ⟨rest, hs⟩ := List.head?_eq_some_iff.mp hhead
    exact absurd (hnot _ _ hs) (by simp [AgentStep.isLineBufferWrite])
  | reset => exact marginsBlack_of_stale rfl

/-! #### The back frame is not read -/

/-- The bytes of two memories agree outside the back frame's window. -/
def AgreeOutsideBackFrame (s : State) (m n : Memory) : Prop :=
  ∀ a, (a < fbAddr s.par (!s.front) 0 ∨ fbAddr s.par (!s.front) s.framePixels ≤ a) → m.load a = n.load a

/-- The front frame's pixels lie outside the back frame's window (20_memory.md R70). -/
theorem frontPixel_same (hap : s.WindowsApart) {m : Memory} (h : AgreeOutsideBackFrame s m s.mem) {i : Nat}
    (hi : i < s.framePixels) : ({ s with mem := m } : State).framePixel s.front i = s.framePixel s.front i := by
  have hapart := State.frames_apart s hap (by omega) s.front
  have hbyte : ∀ a, fbAddr s.par s.front 0 ≤ a → a < fbAddr s.par s.front s.framePixels →
      ({ s with mem := m } : State).byteAt a = s.byteAt a := by
    intro a hlo hhi
    rw [State.byteAt, State.byteAt, h a (by omega)]
  have hlo : fbAddr s.par s.front 0 ≤ fbAddr s.par s.front i := by
    unfold fbAddr
    omega
  have hhi : fbAddr s.par s.front i + 1 < fbAddr s.par s.front s.framePixels := by
    unfold fbAddr
    omega
  exact congrArg₂ pixelOfBytes (hbyte (fbAddr s.par s.front i) hlo (by omega))
    (hbyte (fbAddr s.par s.front i + 1) (by omega) hhi)

/-- A row whose source indices lie in the frame is read from the front frame alone. -/
theorem sourceRun_same (hap : s.WindowsApart) {m : Memory} (h : AgreeOutsideBackFrame s m s.mem)
    (hidx : ∀ j : Nat, (j : Int) < s.geom.lineWidth.toInt → 0 ≤ s.sourceIndex j ∧ s.sourceIndex j < s.framePixels) :
    ({ s with mem := m } : State).sourceRun = s.sourceRun := by
  refine List.map_congr_left fun j hj => frontPixel_same hap h ?_
  have hj : j < s.sourceCount := List.mem_range.mp hj
  have := hidx j (by unfold State.sourceCount at hj; omega)
  show (s.sourceIndex j).toNat < s.framePixels
  omega

/-- The same run written over memories that agree outside the back frame leaves memories that do. -/
theorem lineWrite_same {m : Memory} (h : AgreeOutsideBackFrame s m s.mem) (b : Bool) (x : Nat) (vs : List Pixel) :
    AgreeOutsideBackFrame s (({ s with mem := m } : State).lineWrite b x vs).mem (s.lineWrite b x vs).mem := by
  intro a ha
  rw [State.load_lineWrite_mem, State.load_lineWrite_mem]
  exact if_congr Iff.rfl rfl (h a ha)

/-- A line writes the same run to the same line buffer whatever the back frame holds. -/
theorem produceLine_same (hap : s.WindowsApart) {m : Memory} (h : AgreeOutsideBackFrame s m s.mem) (buf : Bool)
    (hidx : s.sourceValid = true → ∀ j : Nat, (j : Int) < s.geom.lineWidth.toInt →
      0 ≤ s.sourceIndex j ∧ s.sourceIndex j < s.framePixels) :
    (({ s with mem := m } : State).produceLine buf).lbEng = (s.produceLine buf).lbEng ∧
    AgreeOutsideBackFrame s (({ s with mem := m } : State).produceLine buf).mem (s.produceLine buf).mem := by
  by_cases hc : s.sourceValid = true ∧ s.rowFits = true
  · have hrun := sourceRun_same hap h (hidx hc.1)
    rw [ScanoutProof.produceLine_of_copied s buf hc.1 hc.2,
      ScanoutProof.produceLine_of_copied { s with mem := m } buf hc.1 hc.2, hrun]
    exact ⟨rfl, lineWrite_same h buf s.dstFirst _⟩
  · have hno : ¬ (s.sourceValid && s.rowFits) = true := by simpa using hc
    have hblank : s.produceLine buf = s.blankLine buf := if_neg hno
    have hblank' : ({ s with mem := m } : State).produceLine buf = ({ s with mem := m } : State).blankLine buf := if_neg hno
    rw [hblank, hblank']
    exact ⟨rfl, lineWrite_same h buf 0 _⟩

/-- Settles O33: the two lines write the same run, and nothing else of a line looks at memory. -/
theorem lineNeverReadsBackFrame : Obligations.LineNeverReadsBackFrame := by
  intro s m buf ur hinv hap he h
  obtain ⟨hi, -⟩ := hinv.enabled he
  have hrec : ({ s with mem := m } : State).recoverUnderrun ur = { s.recoverUnderrun ur with mem := m } := by
    cases ur <;> rfl
  have hsame := produceLine_same (s := s.recoverUnderrun ur) (m := m) (by cases ur <;> exact hap) (by cases ur <;> exact h) buf
    fun hvalid j hj => by
      simpa [State.framePixels] using sourceIndex_in_frame hinv he hvalid (j := j) (by simpa using hj)
  obtain ⟨hlb, hmem⟩ := hsame
  obtain ⟨hm, hl⟩ := State.scanLine_mem s buf ur
  obtain ⟨hm', hl'⟩ := State.scanLine_mem { s with mem := m } buf ur
  rw [hrec] at hm' hl'
  refine ⟨s.scanLine buf ur, (({ s with mem := m } : State).scanLine buf ur).mem, exec_line_of_accepted buf ur hi he,
    (exec_line_of_accepted (s := { s with mem := m }) buf ur hi he).trans (congrArg _ ?_), fun a ha => ?_⟩
  · apply State.ext_fields
    case lbEng => exact hl'.trans (hlb.trans hl.symm)
    all_goals simp [State.frameDone_scan]
  · rw [hm, hm']
    exact hmem a (by simpa [State.framePixels] using ha)

end Sys2Proof.MemoryProof
end

section
/-! PROOFS of 41_scanout.md R157 and R158, 42_synchronizer.md R179, 43_handoff.md R191 and 70_reset_and_hazards.md R272, runs of line events. A line event either stays in its frame
(`step_inside`) or ends it (`step_ending`); runs are counted by induction on the events. -/

namespace Sys2Proof.FrameRunProof

open Sys2Proof
open Sys2Proof.Machine
open Sys2Proof.InvariantProof
open Sys2Proof.SynchronizerProof
open Sys2Proof.PortProof

/-- A state in which line events are accepted and the invariants hold. -/
structure Scanning (s : State) : Prop where
  inv : s.Inv
  en : s.en = true
  rstIn : s.rstIn = false

theorem Scanning.inited {s : State} (h : Scanning s) : s.inited = true := (h.inv.enabled h.en).1

theorem Scanning.geomValid {s : State} (h : Scanning s) : s.geomValid = true := (h.inv.enabled h.en).2

/-- What line events leave in a frame that goes on: the scanning goes on, and neither signal is given. -/
structure FrameGoesOn (s t : State) : Prop where
  scanning : Scanning t
  geom : t.geom = s.geom
  policy : t.policy = s.policy
  fr : t.fr = s.fr
  ack : t.ack = s.ack
  lastb : t.lastb = s.lastb
  pend : t.pend = s.pend
  front : t.front = s.front
  result : t.result = s.result

theorem FrameGoesOn.refl {s : State} (h : Scanning s) : FrameGoesOn s s := ⟨h, rfl, rfl, rfl, rfl, rfl, rfl, rfl, rfl⟩

theorem FrameGoesOn.trans {s t u : State} (h : FrameGoesOn s t) (h' : FrameGoesOn t u) : FrameGoesOn s u :=
  ⟨h'.scanning, h'.geom.trans h.geom, h'.policy.trans h.policy, h'.fr.trans h.fr, h'.ack.trans h.ack, h'.lastb.trans h.lastb,
    h'.pend.trans h.pend, h'.front.trans h.front, h'.result.trans h.result⟩

theorem FrameGoesOn.frameLength {s t : State} (h : FrameGoesOn s t) : t.frameLength = s.frameLength := by
  rw [State.frameLength, State.frameLength, h.geom]

/-- What the line event that ends a frame leaves. -/
structure FrameEnds (s t : State) : Prop where
  curCount : t.curCount = 0
  curSrc : t.curSrc = s.geom.startOffset
  urf : t.urf = false
  lastb : t.lastb ≠ .none
  fr : t.fr = (s.fr || (decide (s.policy = .throughput) || s.ack))
  pend : t.pend = s.pend
  front : t.front = s.front
  rstIn : t.rstIn = s.rstIn

theorem FrameGoesOn.ends {s t u : State} (h : FrameGoesOn s t) (hs : s.rstIn = false) (h' : FrameEnds t u) : FrameEnds s u :=
  ⟨h'.curCount, h'.curSrc.trans (by rw [h.geom]), h'.urf, h'.lastb, h'.fr.trans (by rw [h.fr, h.policy, h.ack]),
    h'.pend.trans h.pend, h'.front.trans h.front, h'.rstIn.trans (h.scanning.rstIn.trans hs.symm)⟩

/-! #### One line event -/

theorem step_lineEvent {s : State} (h : Scanning s) {b ur : Bool} {rest : List AgentStep}
    (hs : s.schedule = lineEvent b ur :: rest) : step s = .next (({ s with schedule := rest } : State).scanLine b ur) :=
  ((step_cons s _ rest hs).trans (perform_lineEvent b ur _ h.rstIn)).trans
    (exec_line_of_accepted (s := { s with schedule := rest }) b ur h.inited h.en)

/-- The end-of-frame test, with the counter and the frame's length as naturals. -/
theorem endsFrame_iff_frameLength_le {s : State} (h : Scanning s) (ur : Bool) :
    EndsFrame s ur ↔ s.frameLength ≤ (s.recoverUnderrun ur).curCount.toNat + 1 := by
  rw [endsFrame_iff, State.frameLength, recovered_count_succ h.inv h.geomValid]
  omega

/-- A line event inside its frame moves the cursor on by a line. -/
theorem step_inside {s : State} (h : Scanning s) {b ur : Bool} {rest : List AgentStep}
    (hs : s.schedule = lineEvent b ur :: rest) (hin : (s.recoverUnderrun ur).curCount.toNat + 1 < s.frameLength) :
    ∃ t, step s = .next t ∧ FrameGoesOn s t ∧ t.schedule = rest ∧
      t.curCount.toNat = (s.recoverUnderrun ur).curCount.toNat + 1 ∧ t.urf = (ur || s.urf) := by
  have hend : ¬ EndsFrame s ur := by
    rw [endsFrame_iff_frameLength_le h]
    omega
  have hu : Scanning { s with schedule := rest } := ⟨inv_of_unseen h.inv rfl, h.en, h.rstIn⟩
  have hstep := step_lineEvent h hs
  obtain ⟨-, hcount, hurf⟩ := scanLine_cursor_of_not_endsFrame (s := { s with schedule := rest }) b hend
  obtain ⟨hfr, hack, hlastb⟩ := scanLine_signals_of_not_endsFrame (s := { s with schedule := rest }) b hend
  have hscan : Scanning (({ s with schedule := rest } : State).scanLine b ur) :=
    ⟨scanLine_keeps_inv hu.inv hu.inited hu.en b ur, by simpa using h.en, by simpa using h.rstIn⟩
  refine ⟨_, hstep, ⟨hscan, by simp, by simp, hfr, hack, hlastb, by simp, by simp, by simp⟩, by simp, ?_, hurf⟩
  have hrec : (({ s with schedule := rest } : State).recoverUnderrun ur).curCount = (s.recoverUnderrun ur).curCount := by
    simp
  rw [hcount, hrec, recovered_count_succ h.inv h.geomValid]

/-- A line event that reaches the frame's length ends the frame. -/
theorem step_ending {s : State} (h : Scanning s) {b ur : Bool} {rest : List AgentStep}
    (hs : s.schedule = lineEvent b ur :: rest) (hend : s.frameLength ≤ (s.recoverUnderrun ur).curCount.toNat + 1) :
    ∃ t, step s = .next t ∧ FrameEnds s t ∧ t.schedule = rest := by
  have hend : EndsFrame { s with schedule := rest } ur := (endsFrame_iff_frameLength_le h ur).mpr hend
  obtain ⟨hsrc, hcount, hurf⟩ := scanLine_cursor_of_endsFrame b hend
  have hdone := (frameDone_iff_endsFrame _ b ur).mpr hend
  refine ⟨_, step_lineEvent h hs, ⟨hcount, hsrc, hurf, ?_, ?_, by simp, by simp, by simp⟩, by simp⟩
  · rw [State.scanLine_lastb, if_pos hdone]
    split <;> simp
  · rw [State.scanLine_fr, if_pos hdone]

/-! #### Runs of line events without underrun -/

/-- While the frame goes on, each event moves the cursor on by a line. -/
theorem run_inside (bufs : List Bool) {s : State} (h : Scanning s) {rest : List AgentStep}
    (hs : s.schedule = lineEvents bufs ++ rest) (hin : s.curCount.toNat + bufs.length < s.frameLength) :
    ∃ t : State, Host.Core.run core bufs.length s = .next t ∧ FrameGoesOn s t ∧ t.schedule = rest ∧
      t.curCount.toNat = s.curCount.toNat + bufs.length ∧ t.urf = s.urf := by
  induction bufs generalizing s with
  | nil => exact ⟨s, run_zero s, .refl h, hs, rfl, rfl⟩
  | cons b bufs ih =>
    rw [List.length_cons] at hin ⊢
    obtain ⟨u, hu, hsu, hsched, hcount, hurf⟩ := step_inside h (b := b) (ur := false) (rest := lineEvents bufs ++ rest) hs
      (by simp; omega)
    have hcount : u.curCount.toNat = s.curCount.toNat + 1 := hcount
    obtain ⟨t, ht, hut, hrest, hcount', hurf'⟩ := ih hsu.scanning hsched (by rw [hsu.frameLength]; omega)
    exact ⟨t, (run_succ_of_next bufs.length s u hu).trans ht, hsu.trans hut, hrest, by omega, hurf'.trans hurf⟩

/-- The events that reach the frame's length end the frame with the last of them. -/
theorem run_ending (bufs : List Bool) {s : State} (h : Scanning s) {rest : List AgentStep}
    (hs : s.schedule = lineEvents bufs ++ rest) (hpos : 0 < bufs.length)
    (hend : s.curCount.toNat + bufs.length = s.frameLength) :
    ∃ t : State, Host.Core.run core bufs.length s = .next t ∧ FrameEnds s t ∧ t.schedule = rest := by
  obtain ⟨first, b, rfl⟩ := List.eq_nil_or_concat bufs |>.resolve_left (List.ne_nil_of_length_pos hpos)
  rw [List.length_concat] at hend ⊢
  have hs : s.schedule = lineEvents first ++ (lineEvent b false :: rest) := by simpa [lineEvents] using hs
  obtain ⟨u, hu, hsu, hsched, hcount, -⟩ := run_inside first h hs (by omega)
  obtain ⟨t, ht, hut, hrest⟩ := step_ending hsu.scanning hsched (by
    rw [hsu.frameLength]
    simp
    omega)
  exact ⟨t, (run_add first.length 1 s u hu).trans (run_one_of_next u t ht), hsu.ends h.rstIn hut, hrest⟩

/-- The counter of a frame in progress is below the frame's length. -/
theorem curCount_lt_frameLength {s : State} (h : Scanning s) : s.curCount.toNat < s.frameLength := by
  have := (h.inv.cursor h.geomValid).1
  unfold State.frameLength
  omega

/-- Settles O34: the two lengths of a run from the start of a frame. -/
theorem frameIsItsCountOfLineEvents : Obligations.FrameIsItsCountOfLineEvents := by
  intro s bufs rest hinv he hr hc hs
  have h : Scanning s := ⟨hinv, he, hr⟩
  have hc : s.curCount.toNat = 0 := by simp [hc]
  refine ⟨fun hlt => ?inside, fun heq => ?ending⟩
  case inside =>
    obtain ⟨t, ht, hst, hrest, hcount, -⟩ := run_inside bufs h hs (by omega)
    have hcount : t.curCount.toNat = bufs.length := by omega
    have hsrc := (hst.scanning.inv.cursor hst.scanning.geomValid).2
    rw [hst.geom, hcount] at hsrc
    exact ⟨t, ht, hcount, hsrc, hst.fr, hst.ack, hst.lastb, hrest⟩
  case ending =>
    have hpos := curCount_lt_frameLength h
    obtain ⟨t, ht, hst, hrest⟩ := run_ending bufs h hs (by omega) (by omega)
    refine ⟨t, ht, hst.curCount, hst.curSrc, hst.urf, hst.lastb, fun hready => ?_, hrest⟩
    rw [hst.fr]
    rcases hready with hp | ha
    · simp [hp]
    · simp [ha]

/-! #### Runs with underrun events -/

/-- Settles O35: the underrun event leaves the cursor on line 2, or ends a frame of two lines; the rest is a run without underrun. -/
theorem underrunRestartsFrameAtLineOne : Obligations.UnderrunRestartsFrameAtLineOne := by
  intro s b bufs rest hinv he hr hlen hs
  have h : Scanning s := ⟨hinv, he, hr⟩
  have hrec : (s.recoverUnderrun true).curCount.toNat = 1 := rfl
  refine ⟨fun hlt => ?inside, fun heq => ?ending⟩
  case inside =>
    obtain ⟨u, hu, hsu, hsched, hcount, hurf⟩ := step_inside h hs (by omega)
    obtain ⟨t, ht, hut, -, hcount', hurf'⟩ := run_inside bufs hsu.scanning hsched (by rw [hsu.frameLength]; omega)
    have hst := hsu.trans hut
    exact ⟨t, (run_succ_of_next bufs.length s u hu).trans ht, by omega, hurf'.trans hurf, hst.fr, hst.ack, hst.lastb⟩
  case ending =>
    rcases Nat.eq_zero_or_pos bufs.length with hnil | hpos
    · obtain ⟨t, ht, hst, -⟩ := step_ending h hs (by omega)
      rw [hnil]
      exact ⟨t, run_one_of_next s t ht, hst.curCount, hst.curSrc, hst.urf, hst.lastb⟩
    · obtain ⟨u, hu, hsu, hsched, hcount, -⟩ := step_inside h hs (by omega)
      obtain ⟨t, ht, hut, -⟩ := run_ending bufs hsu.scanning hsched hpos (by rw [hsu.frameLength]; omega)
      have hst := hsu.ends h.rstIn hut
      exact ⟨t, (run_succ_of_next bufs.length s u hu).trans ht, hst.curCount, hst.curSrc, hst.urf, hst.lastb⟩

/-- Each underrun event puts the cursor on line 2 again. -/
theorem run_underrunEvents (bufs : List Bool) (b : Bool) {s : State} (h : Scanning s) {rest : List AgentStep}
    (hs : s.schedule = underrunEvents (b :: bufs) ++ rest) (hlen : 2 < s.frameLength) :
    ∃ t : State, Host.Core.run core (bufs.length + 1) s = .next t ∧ FrameGoesOn s t ∧ t.curCount.toNat = 2 ∧ t.urf = true := by
  obtain ⟨u, hu, hsu, hsched, hcount, hurf⟩ := step_inside h hs hlen
  induction bufs generalizing b s u with
  | nil => exact ⟨u, run_one_of_next s u hu, hsu, hcount, hurf⟩
  | cons b' bufs ih =>
    have hlen' : 2 < u.frameLength := hsu.frameLength ▸ hlen
    obtain ⟨v, hv, huv, hsched', hcount', hurf'⟩ := step_inside hsu.scanning hsched hlen'
    obtain ⟨t, ht, hut, hc, hf⟩ := ih b' hsu.scanning hsched hlen' v hv huv hsched' hcount' hurf'
    exact ⟨t, (run_succ_of_next _ s u hu).trans ht, hsu.trans hut, hc, hf⟩

/-- Settles O36: the counter is 2 after every event of the stream. -/
theorem endlessUnderrunNeverEndsAFrame : Obligations.EndlessUnderrunNeverEndsAFrame := by
  intro s b bufs rest hinv he hr hlen hs
  obtain ⟨t, ht, hst, hcount, hurf⟩ := run_underrunEvents bufs b ⟨hinv, he, hr⟩ hs hlen
  exact ⟨t, ht, BitVec.eq_of_toNat_eq hcount, hurf, hst.fr, hst.ack, hst.lastb⟩

/-! #### A held `PUBLISH` -/

/-- Settles O42: while the frame goes on `FR` stays 0 and the turn does nothing; its end gives `FR` for the acknowledgement, and the
turn commits. -/
theorem secondPublishWaitsForOneFrame : Obligations.SecondPublishWaitsForOneFrame := by
  intro s bufs rest hinv he hr hp hf ha hpend hs
  have h : Scanning s := ⟨hinv, he, hr⟩
  refine ⟨fun hlt => ?held, fun heq => ?committed⟩
  case held =>
    obtain ⟨u, hu, hsu, hsched, -, -⟩ := run_inside bufs h hs hlt
    obtain ⟨-, -, hturn⟩ := commitOfHeldCommand u rest hsched hsu.scanning.rstIn
    have hstep := hturn (by simp [hsu.pend, hpend]) (hsu.fr.trans hf)
    exact ⟨_, (run_add bufs.length 1 s u hu).trans (run_one_of_next u _ hstep), hsu.pend.trans hpend, hsu.front, hsu.fr.trans hf,
      hsu.result⟩
  case committed =>
    have hpos := curCount_lt_frameLength h
    obtain ⟨u, hu, hsu, hsched⟩ := run_ending bufs h hs (by omega) heq
    obtain ⟨hturn, -, -⟩ := commitOfHeldCommand u rest hsched (hsu.rstIn.trans hr)
    have hstep := hturn (hsu.pend.trans hpend) (by simp [hsu.fr, ha])
    exact ⟨_, (run_add bufs.length 1 s u hu).trans (run_one_of_next u _ hstep), rfl, by simp [hsu.front], rfl, rfl, rfl⟩

end Sys2Proof.FrameRunProof
end

section
/-! PROOFS of 20_memory.md R62, R63 and R67 and 60_exceptions.md R230, totality and the environment's pixel accesses. -/

namespace Sys2Proof.AccessProof

open Sys2Proof
open Sys2Proof.Machine
open Sys2Proof.CommandProof
open Sys2Proof.PortProof

/-! #### Every operation completes -/

theorem exec_total (i : Instr) (s : State) : ∃ t, exec i s = .next t := by
  cases hport : i.port with
  | cmd =>
    obtain ⟨t, ht, -⟩ := exec_effect i hport s
    exact ⟨t, ht⟩
  | evt =>
    cases i with
    | line buf ur => exact ⟨_, ScanoutProof.exec_line s buf ur⟩
    | _ => cases hport

theorem issue_total (w : Word) (s : State) : ∃ t, issue w s = .next t := by
  unfold issue
  split
  · exact exec_total _ s
  · exact ⟨_, rfl⟩

theorem evtWrite_total (w : Word) (s : State) : ∃ t, evtWrite w s = .next t := by
  unfold evtWrite
  split
  · exact exec_total _ s
  · exact ⟨_, rfl⟩

theorem cmdWrite_total (w : Word) (s : State) : ∃ t, cmdWrite w s = .next t := by
  unfold cmdWrite
  split
  · split
    · exact issue_total w s
    · exact issue_total _ _
  · exact ⟨_, rfl⟩

theorem hostTurn_total (s : State) : ∃ t, hostTurn s = .next t := by
  unfold hostTurn
  split
  · exact ⟨_, rfl⟩
  split
  · split
    · exact ⟨_, rfl⟩
    · exact issue_total _ _
  · split <;> exact ⟨_, rfl⟩

/-- An agent's step completes, unless it is an access to a pixel, which may fault. -/
theorem perform_outcome (e : AgentStep) (s : State) :
    (∃ t, perform e s = .next t) ∨ (e.isPixelAccess = true ∧ ∃ f, perform e s = .fault f) := by
  cases e with
  | hostWrite off width v =>
    simp only [perform]
    split
    · exact .inl (cmdWrite_total v s)
    · exact .inl ⟨_, rfl⟩
  | evtWrite off width v =>
    simp only [perform]
    split
    · exact .inl (evtWrite_total v s)
    · exact .inl ⟨_, rfl⟩
  | hostTurn => exact .inl (hostTurn_total s)
  | hostRead | evtRead | alloc | rst => exact .inl ⟨_, rfl⟩
  | fbWrite | fbRead | lbWrite | lbRead =>
    simp only [perform]
    split
    · exact .inl ⟨_, rfl⟩
    · exact .inr ⟨rfl, _, rfl⟩

theorem step_outcome (s : State) : (∃ t, step s = .next t) ∨
    (∃ e rest, s.schedule = e :: rest ∧ e.isPixelAccess = true) ∧ ∃ f, step s = .fault f := by
  cases hs : s.schedule with
  | nil =>
    rw [step_nil s hs]
    exact .inl (hostTurn_total s)
  | cons e rest =>
    rw [step_cons s e rest hs]
    exact (perform_outcome e _).imp_right fun ⟨he, hf⟩ => ⟨⟨e, rest, rfl, he⟩, hf⟩

/-! #### The pixel accesses -/

theorem hasFramePixel_iff (s : State) (f : Bool) (i : Nat) :
    s.hasFramePixel f i = true ↔ s.fbValid f = true ∧ i < s.lw.toNat * s.lh.toNat := by
  rw [State.hasFramePixel, Bool.and_eq_true, decide_eq_true_iff, State.framePixels]

theorem hasLinePixel_iff (s : State) (x : Nat) : s.hasLinePixel x = true ↔ x < s.par.pw := by
  simp [State.hasLinePixel]

/-- A byte that has been written reads as written. -/
theorem byteAt_of_load {s : State} {a : Nat} {b : Byte} (h : s.mem.load a = some b) : s.byteAt a = b := by
  rw [State.byteAt, h, Option.getD_some]

/-- The pixel of two bytes of memory has those bytes, low byte first. -/
theorem pixel_bytes (s : State) (a : Nat) :
    (∀ b, s.mem.load a = some b → (pixelOfBytes (s.byteAt a) (s.byteAt (a + 1))).extractLsb' 0 8 = b) ∧
    (∀ b, s.mem.load (a + 1) = some b → (pixelOfBytes (s.byteAt a) (s.byteAt (a + 1))).extractLsb' 8 8 = b) := by
  obtain ⟨hlo, hhi⟩ := pixelBytes_pixelOfBytes (s.byteAt a) (s.byteAt (a + 1))
  exact ⟨fun b hb => hlo.trans (byteAt_of_load hb), fun b hb => hhi.trans (byteAt_of_load hb)⟩

/-- Settles O60: totality by the cases of a step, and each access by whether its pixel exists. -/
theorem onlyPixelAccessesFault : Obligations.OnlyPixelAccessesFault := by
  refine ⟨⟨fun s r h => ?notRefused, fun s f h => ?faults, exec_total⟩, ?fbWrite, ?fbRead, ?lbWrite, ?lbRead⟩
  case notRefused =>
    obtain ⟨t, ht⟩ | ⟨-, f, hf⟩ := step_outcome s
    · exact nomatch ht.symm.trans h
    · exact nomatch hf.symm.trans h
  case faults =>
    obtain ⟨t, ht⟩ | ⟨he, -⟩ := step_outcome s
    · exact nomatch ht.symm.trans h
    · exact he
  case fbWrite =>
    intro s f i v rest hs
    have hstep := step_cons s _ rest hs
    split
    next hex =>
      obtain ⟨hlo, hhi, hother⟩ := Memory.load_store_pixel s.mem (fbAddr s.par f i) v
      exact ⟨_, hstep.trans (if_pos ((hasFramePixel_iff s f i).mpr hex)), hlo, hhi, hother⟩
    next hno => exact hstep.trans (if_neg fun h => hno ((hasFramePixel_iff s f i).mp h))
  case fbRead =>
    intro s f i rest hs
    have hstep := step_cons s _ rest hs
    split
    next hex =>
      exact ⟨s.framePixel f i, hstep.trans (if_pos ((hasFramePixel_iff s f i).mpr hex)), rfl, pixel_bytes s _⟩
    next hno => exact hstep.trans (if_neg fun h => hno ((hasFramePixel_iff s f i).mp h))
  case lbWrite =>
    intro s b x v rest hs
    have hstep := step_cons s _ rest hs
    split
    next hex =>
      obtain ⟨hlo, hhi, hother⟩ := Memory.load_store_pixel s.mem (lbAddr s.par b x) v
      obtain ⟨elo, ehi, eother⟩ := Memory.load_store_pixel s.lbEng (lbAddr s.par b x) v
      exact ⟨_, _, hstep.trans (if_pos ((hasLinePixel_iff s x).mpr hex)), ⟨hlo, hhi⟩, ⟨elo, ehi⟩,
        fun a ha => ⟨hother a ha, eother a ha⟩⟩
    next hno => exact hstep.trans (if_neg fun h => hno ((hasLinePixel_iff s x).mp h))
  case lbRead =>
    intro s b x rest hs
    have hstep := step_cons s _ rest hs
    split
    next hex =>
      refine ⟨s.devicePixel b x, hstep.trans (if_pos ((hasLinePixel_iff s x).mpr hex)), rfl, fun hi => ?_⟩
      rw [State.devicePixel, if_pos hi]
      exact pixel_bytes s _
    next hno => exact hstep.trans (if_neg fun h => hno ((hasLinePixel_iff s x).mp h))

end Sys2Proof.AccessProof
end
